-- ==== Sys2Proof/Word.lean ====
section
/-! DEFINITION. The words of the block: bytes, bus addresses, the 16-bit fields and the 64-bit command word. -/

namespace Sys2Proof

/-- A data value (R6): 8 bits, unsigned. -/
abbrev Byte := BitVec 8

/-- A 7-bit bus address (R50 field `A7`, R55). -/
abbrev BusAddr := BitVec 7

/-- A 16-bit field of the command word: `PTR` or `N` (R50). `ADDR_W`-bit and `CNT_W`-bit registers are held
in it; the invariant of Safety.lean keeps their values below `2^ADDR_W` and `2^CNT_W`. -/
abbrev Half := BitVec 16

/-- A command word (R50). -/
abbrev CmdWord := BitVec 64

/-- Data memory (R36) as plain data: address and byte pairs, addresses strictly rising, none equal to what an
unlisted address reads as (`Memory.wf` of Machine/Ops.lean). -/
abbrev Memory := List Host.Cell

end Sys2Proof
end

