-- ==== Sys2Proof/Config.lean ====
section
/-! DEFINITION. The parameters a run takes (R5), the fixed constants, the port's registers and the engine's working
registers as records, and the free values: opaque constants, of which nothing can be proved but their type. -/

namespace Sys2Proof

/-- `ROLE` (R5): the role of this bus instance, fixed for its life (R31). -/
inductive Role where
  | controller
  | target
deriving DecidableEq, Repr, Inhabited

/-- `MODE` (R5): the VRF's addressing mode, a compile-time policy switch (R31). -/
inductive Mode where
  | addressPrefixed
  | flatStream
deriving DecidableEq, Repr, Inhabited

/-- The controller commands (R52 class 1): what `eng.op` holds (R21). -/
inductive CtrlOp where
  | sendbyte
  | sendbytes
  | readbyte
  | readbytes
  | regwrrd
deriving DecidableEq, Repr, Inhabited

/-- `eng.phase` (R21): the write phase A and the read phase B of REGWRRD. -/
inductive Phase where
  | A
  | B
deriving DecidableEq, Repr, Inhabited

/-- The status snapshot a poll returns (R29). -/
structure Snapshot where
  active : Bool
  txbe   : Bool
  rxbf   : Bool
deriving DecidableEq, Repr, Inhabited

/-- The port's registers (R22 to R30). The port owns them: a field holds the value last seen to pass through
the register (written by the block, answered to it, or set by the port). -/
structure PortRegs where
  /-- `ADDR` (R23). -/
  addr   : Byte
  /-- `CNT` (R24), `CNT_W` bits. -/
  cnt    : Half
  /-- `TXB` (R25). -/
  txb    : Byte
  /-- `RXB` (R26). -/
  rxb    : Byte
  /-- `RSEN` (R27). -/
  rsen   : Bool
  /-- `START` (R28): a strobe. -/
  start  : Bool
  /-- `STATUS` (R29). -/
  status : Snapshot
  /-- `STOPF` (R30). -/
  stopf  : Bool
deriving DecidableEq, Repr, Inhabited

/-- The engine's working registers (R21), alive from a command's entry to its return. -/
structure Work where
  op    : CtrlOp
  a7    : BusAddr
  d8    : Byte
  ptr   : Half
  n     : Half
  i     : Nat
  phase : Phase
  ok    : Bool
  rbyte : Byte
deriving DecidableEq, Repr, Inhabited

/-- The values a model takes as arguments (R5), for one run. `SENTINEL`, `CAPACITY_DEFAULT` and
`PRELOAD_EXTRA` have one value each in R5 and are constants below. -/
structure Params where
  role           : Role
  mode           : Mode
  /-- `TARGET_ADDR`: only the port uses it; no rule of the block reads it (R5). -/
  targetAddr     : BusAddr
  /-- `CNT_W`, 1..16. -/
  cntW           : Nat
  /-- `ADDR_W`, 1..16. -/
  addrW          : Nat
  drainWaits     : Bool
  readbytesDrain : Bool
  /-- `MEM0`: the initial contents of data memory. -/
  mem0           : Memory
deriving DecidableEq, Repr, Inhabited

namespace Config

/-- `SENTINEL` (R5, R86). -/
def sentinel : Byte := 0x00#8

/-- `CAPACITY_DEFAULT` (R5): the reference buffer capacity. No rule reads it; the capacities are operands. -/
def capacityDefault : Nat := 16

/-- `PRELOAD_EXTRA` (R5, R79): byte-requested events the port delivers beyond the bytes on the wire. -/
def preloadExtra : Nat := 1

/-- DESIGN CHOICE (log 4): what an unlisted address reads as. It is a way of writing memory down, not a claim
about power-on contents: any `MEM0` is a list of the bytes that differ from it. -/
def unlistedByte : Byte := 0x00#8

/-- The parameters of `State.reset`. DESIGN CHOICE (log 4, log 5): R5 leaves these open but for MODE and
READBYTES_DRAIN, whose defaults they are; `State.resetWith` takes every choice. -/
def reference : Params where
  role           := .controller
  mode           := .addressPrefixed
  targetAddr     := 0#7
  cntW           := 8
  addrW          := 16
  drainWaits     := false
  readbytesDrain := false
  mem0           := []

/-! Free values (log 3, log 31): each is applied to the instance's index `env.inst` and to `env.drawn`, which grows at
every draw, so no two draws share one, neither in one instance nor in two. -/

/-- A poll's answer (R7 `PortPoll`). -/
opaque freePoll : Nat → Nat → Snapshot

/-- The answer of a read of RXB (R7 `PortRead`). -/
opaque freeRxb : Nat → Nat → Byte

/-- The answer of a read of CNT (R7 `PortRead`). -/
opaque freeCnt : Nat → Nat → Half

/-- `draw byte` (R7): READBYTE's result when no byte arrives (R68), a custom handler's answer (R102). -/
opaque freeByte : Nat → Nat → Byte

/-- The port's registers after a device reset (R123: port-owned, unspecified; log 8). -/
opaque freePort : Nat → Nat → PortRegs

/-- The engine's working registers after a return (R63: they hold no value; log 7). -/
opaque freeWork : Nat → Nat → Work

end Config

end Sys2Proof
end

