-- ==== Sys2Proof/Syntax.lean ====
section
/-! DEFINITION. The instructions: one constructor for each row of spec/opcode_table.json (R52), and the
pseudo-instructions with their expansions (R59). -/

namespace Sys2Proof

/-- The handler selector `HSEL` of format CH (R54): 01 is `vrf`, 10 is `custom`; 00 and 11 are reserved. -/
inductive HSel where
  | vrf
  | custom
deriving DecidableEq, Repr, Inhabited

/-- The operations (R52). Operands: `a7` is A7, `d8` is D8, `ptr` is PTR, `n` is N, `hsel` and `hid` are the two
parts of D8 in format CH (R54). -/
inductive Instr where
  /-- SETWBUF ptr, size (R83). -/
  | setwbuf (ptr n : Half)
  /-- SETRBUF ptr, size (R84). -/
  | setrbuf (ptr n : Half)
  /-- REGW handler (R96). -/
  | regw (hsel : HSel) (hid : BitVec 6)
  /-- REGR handler (R97). -/
  | regr (hsel : HSel) (hid : BitVec 6)
  /-- REGS handler (R98). -/
  | regs (hsel : HSel) (hid : BitVec 6)
  /-- SENDBYTE a7, data (R66). -/
  | sendbyte (a7 : BusAddr) (d8 : Byte)
  /-- SENDBYTES a7, ptr, len (R67). -/
  | sendbytes (a7 : BusAddr) (ptr n : Half)
  /-- READBYTE a7 (R68). -/
  | readbyte (a7 : BusAddr)
  /-- READBYTES a7, ptr, len (R69). -/
  | readbytes (a7 : BusAddr) (ptr n : Half)
  /-- REGWRRD a7, reg, ptr, len (R70). -/
  | regwrrd (a7 : BusAddr) (d8 : Byte) (ptr n : Half)
  /-- EV_WRITTEN data (R99). -/
  | evWritten (d8 : Byte)
  /-- EV_REQUESTED (R100). -/
  | evRequested
  /-- EV_STOPPED (R101). -/
  | evStopped
  /-- VRF_STORE data (R85). -/
  | vrfStore (d8 : Byte)
  /-- VRF_REQUEST (R86). -/
  | vrfRequest
  /-- VRF_STOP (R87). -/
  | vrfStop
deriving DecidableEq, Repr, Inhabited

/-- The pseudo-instructions (R59). -/
inductive Pseudo where
  /-- SETBUF ptr, size. -/
  | setbuf (ptr n : Half)
  /-- REGVRF. -/
  | regvrf
deriving DecidableEq, Repr

/-- What a pseudo-instruction expands to, in order (R59). -/
def Pseudo.expand : Pseudo → List Instr
  | .setbuf ptr n => [.setwbuf ptr n, .setrbuf ptr n]
  | .regvrf => [.regw .vrf 0#6, .regr .vrf 0#6, .regs .vrf 0#6]

end Sys2Proof
end

