-- ==== Sys2Proof/WellFormed.lean ====
section
/-! DEFINITION. Which instructions have a command word. The operand types carry every width of R50; one check is
left: with HSEL = 01 the handler id must be 0 (R53, R54). The ranges of PTR and N are no part of it: each
operation's entry checks them after decoding (R53, R114). -/

namespace Sys2Proof

/-- HID must be 0 with HSEL = 01 (R54). -/
def HSel.okWith (hsel : HSel) (hid : BitVec 6) : Bool :=
  match hsel with
  | .vrf => hid == 0#6
  | .custom => true

/-- An instruction that some command word spells (R51 to R54). -/
def Instr.wellFormed : Instr → Bool
  | .setwbuf _ _ => true
  | .setrbuf _ _ => true
  | .regw hsel hid => hsel.okWith hid
  | .regr hsel hid => hsel.okWith hid
  | .regs hsel hid => hsel.okWith hid
  | .sendbyte _ _ => true
  | .sendbytes _ _ _ => true
  | .readbyte _ => true
  | .readbytes _ _ _ => true
  | .regwrrd _ _ _ _ => true
  | .evWritten _ => true
  | .evRequested => true
  | .evStopped => true
  | .vrfStore _ => true
  | .vrfRequest => true
  | .vrfStop => true

end Sys2Proof
end

