-- ==== Sys2Proof/Decode.lean ====
section
/-! DEFINITION. The decoder of R53, total on every 64-bit word, and the encoder of R50 and R58. -/

namespace Sys2Proof

/-- The command-word formats (R50). -/
inductive Format where
  | CB | CH | AD | A | APN | ADPN | D | Z
deriving DecidableEq, Repr

/-- Why a word spells no operation (R112, raised by decode). -/
inductive DecodeError where
  | reservedOpcode
  | reservedField
  | reservedHandlerSelect
deriving DecidableEq, Repr

/-- `OPC` = CW[63:56] (R50). -/
def fieldOpc (cw : CmdWord) : BitVec 8 := cw.extractLsb' 56 8
/-- `A7` = CW[54:48] (R50). -/
def fieldA7 (cw : CmdWord) : BusAddr := cw.extractLsb' 48 7
/-- `D8` = CW[47:40] (R50). -/
def fieldD8 (cw : CmdWord) : Byte := cw.extractLsb' 40 8
/-- `PTR` = CW[39:24] (R50). -/
def fieldPtr (cw : CmdWord) : Half := cw.extractLsb' 24 16
/-- `N` = CW[23:8] (R50). -/
def fieldN (cw : CmdWord) : Half := cw.extractLsb' 8 16
/-- `HSEL` = CW[47:46] (R54). -/
def fieldHsel (cw : CmdWord) : BitVec 2 := cw.extractLsb' 46 2
/-- `HID` = CW[45:40] (R54). -/
def fieldHid (cw : CmdWord) : BitVec 6 := cw.extractLsb' 40 6

/-- One row of the opcode map (R52), with the match and mask of spec/opcode_table.json, and the instruction
its fields build once every check of R53 has passed. -/
structure Row where
  opc    : BitVec 8
  format : Format
  mtch   : CmdWord
  mask   : CmdWord
  build  : CmdWord → Instr

/-- Which handler HSEL names (R54), after 00 and 11 are refused. -/
def hselOf (cw : CmdWord) : HSel := if fieldHsel cw = 0b01#2 then .vrf else .custom

/-- The opcode map (R52). -/
def opcodeTable : List Row := [
  ⟨0x01#8, .CB,   0x0100000000000000#64, 0xFFFFFF00000000FF#64, fun w => .setwbuf (fieldPtr w) (fieldN w)⟩,
  ⟨0x02#8, .CB,   0x0200000000000000#64, 0xFFFFFF00000000FF#64, fun w => .setrbuf (fieldPtr w) (fieldN w)⟩,
  ⟨0x03#8, .CH,   0x0300000000000000#64, 0xFFFF00FFFFFFFFFF#64, fun w => .regw (hselOf w) (fieldHid w)⟩,
  ⟨0x04#8, .CH,   0x0400000000000000#64, 0xFFFF00FFFFFFFFFF#64, fun w => .regr (hselOf w) (fieldHid w)⟩,
  ⟨0x05#8, .CH,   0x0500000000000000#64, 0xFFFF00FFFFFFFFFF#64, fun w => .regs (hselOf w) (fieldHid w)⟩,
  ⟨0x10#8, .AD,   0x1000000000000000#64, 0xFF8000FFFFFFFFFF#64, fun w => .sendbyte (fieldA7 w) (fieldD8 w)⟩,
  ⟨0x11#8, .APN,  0x1100000000000000#64, 0xFF80FF00000000FF#64,
    fun w => .sendbytes (fieldA7 w) (fieldPtr w) (fieldN w)⟩,
  ⟨0x12#8, .A,    0x1200000000000000#64, 0xFF80FFFFFFFFFFFF#64, fun w => .readbyte (fieldA7 w)⟩] ++ [
  ⟨0x13#8, .APN,  0x1300000000000000#64, 0xFF80FF00000000FF#64,
    fun w => .readbytes (fieldA7 w) (fieldPtr w) (fieldN w)⟩,
  ⟨0x14#8, .ADPN, 0x1400000000000000#64, 0xFF800000000000FF#64,
    fun w => .regwrrd (fieldA7 w) (fieldD8 w) (fieldPtr w) (fieldN w)⟩,
  ⟨0x20#8, .D,    0x2000000000000000#64, 0xFFFF00FFFFFFFFFF#64, fun w => .evWritten (fieldD8 w)⟩,
  ⟨0x21#8, .Z,    0x2100000000000000#64, 0xFFFFFFFFFFFFFFFF#64, fun _ => .evRequested⟩,
  ⟨0x22#8, .Z,    0x2200000000000000#64, 0xFFFFFFFFFFFFFFFF#64, fun _ => .evStopped⟩,
  ⟨0x30#8, .D,    0x3000000000000000#64, 0xFFFF00FFFFFFFFFF#64, fun w => .vrfStore (fieldD8 w)⟩,
  ⟨0x31#8, .Z,    0x3100000000000000#64, 0xFFFFFFFFFFFFFFFF#64, fun _ => .vrfRequest⟩,
  ⟨0x32#8, .Z,    0x3200000000000000#64, 0xFFFFFFFFFFFFFFFF#64, fun _ => .vrfStop⟩]

/-- The row with `OPC == CW[63:56]`, if any (R53). -/
def rowOf (cw : CmdWord) : Option Row := opcodeTable.find? (fun r => r.opc == fieldOpc cw)

/-- The checks of R53 on a word whose row is known, in their order. -/
def decodeRow (row : Row) (cw : CmdWord) : Except DecodeError Instr :=
  if cw &&& row.mask ≠ row.mtch then .error .reservedField
  else if row.format = .CH ∧ (fieldHsel cw = 0b00#2 ∨ fieldHsel cw = 0b11#2) then .error .reservedHandlerSelect
  else if row.format = .CH ∧ fieldHsel cw = 0b01#2 ∧ fieldHid cw ≠ 0#6 then .error .reservedField
  else .ok (row.build cw)

/-- Decoding (R53): total on every word, each rejection by its name. -/
def decode (cw : CmdWord) : Except DecodeError Instr :=
  match rowOf cw with
  | none => .error .reservedOpcode
  | some row => decodeRow row cw

/-- The command word of its fields (R50): OPC, RSV0 = 0, A7, D8, PTR, N, RSV1 = 0. -/
def assembleWord (opc : BitVec 8) (a7 : BusAddr) (d8 : Byte) (ptr n : Half) : CmdWord :=
  (opc.setWidth 64 <<< 56) ||| (a7.setWidth 64 <<< 48) ||| (d8.setWidth 64 <<< 40) |||
    (ptr.setWidth 64 <<< 24) ||| (n.setWidth 64 <<< 8)

/-- The two bits of HSEL (R54). -/
def hselBits : HSel → BitVec 2
  | .vrf => 0b01#2
  | .custom => 0b10#2

/-- `HSEL:HID` as D8 (R54). -/
def handlerByte (hsel : HSel) (hid : BitVec 6) : Byte :=
  ((hselBits hsel).setWidth 8 <<< 6) ||| hid.setWidth 8

/-- The command word of an instruction (R50, R51, R52, R58): each operand in its field, every other bit zero. -/
def encode : Instr → CmdWord
  | .setwbuf ptr n => assembleWord 0x01#8 0#7 0#8 ptr n
  | .setrbuf ptr n => assembleWord 0x02#8 0#7 0#8 ptr n
  | .regw hsel hid => assembleWord 0x03#8 0#7 (handlerByte hsel hid) 0#16 0#16
  | .regr hsel hid => assembleWord 0x04#8 0#7 (handlerByte hsel hid) 0#16 0#16
  | .regs hsel hid => assembleWord 0x05#8 0#7 (handlerByte hsel hid) 0#16 0#16
  | .sendbyte a7 d8 => assembleWord 0x10#8 a7 d8 0#16 0#16
  | .sendbytes a7 ptr n => assembleWord 0x11#8 a7 0#8 ptr n
  | .readbyte a7 => assembleWord 0x12#8 a7 0#8 0#16 0#16
  | .readbytes a7 ptr n => assembleWord 0x13#8 a7 0#8 ptr n
  | .regwrrd a7 d8 ptr n => assembleWord 0x14#8 a7 d8 ptr n
  | .evWritten d8 => assembleWord 0x20#8 0#7 d8 0#16 0#16
  | .evRequested => assembleWord 0x21#8 0#7 0#8 0#16 0#16
  | .evStopped => assembleWord 0x22#8 0#7 0#8 0#16 0#16
  | .vrfStore d8 => assembleWord 0x30#8 0#7 d8 0#16 0#16
  | .vrfRequest => assembleWord 0x31#8 0#7 0#8 0#16 0#16
  | .vrfStop => assembleWord 0x32#8 0#7 0#8 0#16 0#16

/-- The instruction the decoder reads from a word numbered as spec/opcode_table.json numbers it: a command word is
64 bits, its bit 0 is bit 0 of the one word (R50, R61); bits above `nbits` are zero. -/
def decodeTableWord (nbits w : Nat) : Option Instr :=
  match decode (BitVec.ofNat 64 (w % 2 ^ nbits)) with
  | .ok i => some i
  | .error _ => none

end Sys2Proof
end

