-- ==== Sys2Proof/Machine/State.lean ====
section
/-! DEFINITION. The machine's state as plain data (R11 to R36), the reasons a step can stop (R111, R112), the outside
world's pending inputs, and the state after reset (R123). -/

namespace Sys2Proof.Machine

/-! ### The sequencer's position (R20): IDLE or (command, line) -/

/-- The lines of the drain (R71). -/
inductive DrainLine where
  | D1 | D2 | D3
deriving DecidableEq, Repr, Inhabited

/-- The lines of SENDBYTE (R66). -/
inductive SendbyteLine where
  | L1 | L2 | L3 | L4 | L5 | L6 | L7
deriving DecidableEq, Repr, Inhabited

/-- The lines of SENDBYTES (R67). -/
inductive SendbytesLine where
  | L1 | L2 | L3 | L4 | L5 | L6 | L7 | L8
deriving DecidableEq, Repr, Inhabited

/-- The lines of READBYTE (R68) and of the drain it may run (R71). -/
inductive ReadbyteLine where
  | L1 | L2 | L3 | L4 | L5 | L6 | L7
  | drain (d : DrainLine)
deriving DecidableEq, Repr, Inhabited

/-- The lines of READBYTES (R69) and of the drain it may run (R71). -/
inductive ReadbytesLine where
  | L1 | L2 | L3 | L4 | L5 | L6 | L7 | L8
  | drain (d : DrainLine)
deriving DecidableEq, Repr, Inhabited

/-- The lines of REGWRRD (R70) and of its drain (R71). -/
inductive RegwrrdLine where
  | L1 | L2 | L3 | L4 | L5 | L6 | L7 | L8 | L9 | L10 | L11 | L12 | L13 | L14
  | drain (d : DrainLine)
deriving DecidableEq, Repr, Inhabited

/-- `eng.seq` (R20). -/
inductive SeqPos where
  | idle
  | sendbyte (l : SendbyteLine)
  | sendbytes (l : SendbytesLine)
  | readbyte (l : ReadbyteLine)
  | readbytes (l : ReadbytesLine)
  | regwrrd (l : RegwrrdLine)
deriving DecidableEq, Repr, Inhabited

/-! ### Why a step stops -/

/-- Which buffer a BufferUnbound fault is about (R111). -/
inductive BufSide where
  | write
  | read
deriving DecidableEq, Repr

/-- The three event points and their slots (R18, R115). -/
inductive EventKind where
  | written
  | requested
  | stopped
deriving DecidableEq, Repr

/-- The faults (R111), with what R111 says is recorded. -/
inductive Fault where
  /-- Raised by VRF_STORE and VRF_REQUEST when the buffer was never bound (R85, R86). Safe: D26. -/
  | bufferUnbound (side : BufSide)
  /-- Raised by EV_WRITTEN, EV_REQUESTED, EV_STOPPED on an EMPTY slot (R99 to R101). Safe: D27. -/
  | noHandler (slot : EventKind)
  /-- Raised by VRF_STORE on a byte written after a byte requested with no stop between (R85). Safe: D29. -/
  | mixedDirection
  /-- Raised by READBYTE L5, READBYTES L5, REGWRRD L11 past the n-th byte (R68 to R70). Safe: D12. -/
  | portOverrun (pos : SeqPos)
  /-- Raised by the drain's line D1 past the n-th byte (R71). Safe: D13. -/
  | drainOverrun (pos : SeqPos)
  /-- Raised by a controller command that arrives while one runs (R62). Safe: D22. -/
  | concurrentCall
  /-- The model's own (log 11): raised by an access to an address at or above `2^ADDR_W`, which R36 says does not
  exist. Safe; no state that keeps the invariant of Safety.lean raises it from a command. -/
  | noSuchAddress (addr : Nat)
deriving DecidableEq, Repr

/-- The refusals (R112). -/
inductive Refusal where
  /-- Raised by decode: OPC is not in the opcode map (R53). Safe: D4. -/
  | reservedOpcode
  /-- Raised by decode: an unused or reserved bit is non-zero, or HID is with HSEL = 01 (R51, R53). Safe: D3. -/
  | reservedField
  /-- Raised by decode: HSEL is 00 or 11 (R53, R54). Safe: D47. -/
  | reservedHandlerSelect
  /-- Raised by a controller command in the target role and an event word in the controller role (R105). Safe: D23. -/
  | roleMismatch
  /-- Raised by SENDBYTES, READBYTES, REGWRRD with N = 0 (R62). Safe: D7. -/
  | zeroLength
  /-- Raised by SENDBYTES, READBYTES, REGWRRD with N at or above 2^CNT_W (R62). Safe: D7. -/
  | lengthTooLarge
  /-- Raised by SENDBYTES, READBYTES, REGWRRD, SETWBUF, SETRBUF with a range past memory (R44, R57). Safe: D7. -/
  | bufferOutOfRange
  /-- Raised by `exec` for an instruction that has no meaning yet; every instruction has one, so by none. Safe. -/
  | notModelled (mnemonic : String)
deriving DecidableEq, Repr

/-- `outcome` (R35): the sticky record of the first fault or refusal. -/
inductive Record where
  | none
  | fault (f : Fault)
  | refused (r : Refusal)
deriving DecidableEq, Repr

/-! ### The state of R11 -/

/-- `vrf.dir` (R15). -/
inductive Dir where
  | none
  | write
  | read
deriving DecidableEq, Repr

/-- The VRF's state (R12 to R17). -/
structure Vrf where
  cursor        : Nat
  isAddressByte : Bool
  hadRead       : Bool
  dir           : Dir
  wbase         : Half
  wsize         : Nat
  wbound        : Bool
  rbase         : Half
  rsize         : Nat
  rbound        : Bool
deriving DecidableEq, Repr

/-- What a dispatch slot holds (R18). -/
inductive Handler where
  | empty
  | vrf
  | custom (h : BitVec 6)
deriving DecidableEq, Repr

/-- The dispatch slots (R18). -/
structure Slots where
  write : Handler
  read  : Handler
  stop  : Handler
deriving DecidableEq, Repr

/-- The engine's state (R19 to R21). -/
structure Eng where
  busy : Bool
  seq  : SeqPos
  work : Work
deriving DecidableEq, Repr

/-! ### The outside world: what it will do, as data (the model's own fields) -/

/-- The VRF fields the foreground may read (R46). -/
inductive VrfField where
  | cursor
  | isAddressByte
  | hadRead
deriving DecidableEq, Repr

/-- One atomic step of the foreground, or of a caller the engine does not block (R45, R46, R47). -/
inductive Action where
  /-- Issue a command word (R50). -/
  | issue (cw : CmdWord)
  /-- Read one byte of data memory (R46). -/
  | load (a : Half)
  /-- Write one byte of data memory (R36). -/
  | store (a : Half) (v : Byte)
  /-- Read one VRF field (R46). -/
  | readVrf (f : VrfField)
  /-- Open a critical section: the port delivers no event from here on (R47). -/
  | mask
  /-- Close the critical section (R47). -/
  | unmask
deriving DecidableEq, Repr

/-- One step the port takes unasked. -/
inductive PortAction where
  /-- Deliver an event word (R60, R115). -/
  | deliver (cw : CmdWord)
  /-- Change the registers it owns (R22): for example STOPF on a stop condition (R30). -/
  | drive (regs : PortRegs)
deriving DecidableEq, Repr

/-- The agents (R4), the callers of R122 and R130, and the device reset (R123). -/
inductive Agent where
  | foreground
  | engine
  | port
  | other
  | device
deriving DecidableEq, Repr

/-- The inputs still to come, oldest first, the count of free values drawn, and the index that names the instance in a
list of several (R122; log 2, log 3, log 17, log 31). -/
structure Env where
  inst   : Nat
  fg     : List Action
  port   : List PortAction
  other  : List Action
  resets : Nat
  turns  : List Agent
  masked : Bool
  polls  : List Snapshot
  rxbs   : List Byte
  cnts   : List Half
  draws  : List Byte
  drawn  : Nat
deriving DecidableEq, Repr

/-! ### Records of a run (R135; the model's own fields, read by no rule) -/

/-- A result returned to a caller (R7 `return v`). -/
inductive Result where
  /-- The bool of SENDBYTE, SENDBYTES, READBYTES or REGWRRD. -/
  | success (op : CtrlOp) (ok : Bool)
  /-- The byte of READBYTE. -/
  | byte (b : Byte)
  /-- The byte of a direct VRF_REQUEST (class 3). -/
  | vrfByte (b : Byte)
deriving DecidableEq, Repr

/-- One port access of the block (R7, R22 to R30). -/
inductive PortAccess where
  | writeAddr (v : Byte)
  | writeCnt (v : Half)
  | writeTxb (v : Byte)
  | writeRsen
  | start
  | poll (st : Snapshot)
  | readRxb (b : Byte)
  | readCnt (c : Half)
  | clearStop
deriving DecidableEq, Repr

/-- What a foreground read saw (R46). -/
inductive Seen where
  | byte (a : Half) (v : Byte)
  | cursor (c : Nat)
  | isAddressByte (b : Bool)
  | hadRead (b : Bool)
deriving DecidableEq, Repr

/-- The records of a run, each oldest first. -/
structure Hist where
  results   : List Result
  txLoads   : List Byte
  trace     : List PortAccess
  reads     : List Seen
  lastEvent : Option EventKind
deriving DecidableEq, Repr

/-- One instance of the block (R11), data memory (R36), the run's parameters (R5), the pending inputs and the
records of the run. -/
structure State where
  par     : Params
  vrf     : Vrf
  slots   : Slots
  eng     : Eng
  port    : PortRegs
  outcome : Record
  mem     : Memory
  env     : Env
  hist    : Hist
deriving DecidableEq, Repr

/-! ### Reset (R123) -/

/-- The VRF after reset. DESIGN CHOICE (log 6): the bindings' bases and sizes, which hold no value, are 0. -/
def Vrf.reset : Vrf where
  cursor        := 0
  isAddressByte := true
  hadRead       := false
  dir           := .none
  wbase         := 0#16
  wsize         := 0
  wbound        := false
  rbase         := 0#16
  rsize         := 0
  rbound        := false

/-- The working registers after reset: DESIGN CHOICE (log 6), the spec gives none. -/
def workAtReset : Work where
  op    := .sendbyte
  a7    := 0#7
  d8    := 0#8
  ptr   := 0#16
  n     := 0#16
  i     := 0
  phase := .A
  ok    := false
  rbyte := 0#8

/-- The engine after reset. -/
def Eng.reset : Eng where
  busy := false
  seq  := .idle
  work := workAtReset

/-- The port's registers at the start of a run: DESIGN CHOICE (log 6), R123 calls them port-owned, unspecified. -/
def portAtReset : PortRegs where
  addr   := 0#8
  cnt    := 0#16
  txb    := 0#8
  rxb    := 0#8
  rsen   := false
  start  := false
  status := ⟨false, false, false⟩
  stopf  := false

/-- No input pending, nothing drawn. DESIGN CHOICE (log 29): event delivery is not masked at the start of a run, which
R124 leaves to the port's bring-up; and a lone instance has index 0 (log 31). -/
def Env.quiet : Env where
  inst   := 0
  fg     := []
  port   := []
  other  := []
  resets := 0
  turns  := []
  masked := false
  polls  := []
  rxbs   := []
  cnts   := []
  draws  := []
  drawn  := 0

/-- Nothing recorded yet. -/
def Hist.empty : Hist where
  results   := []
  txLoads   := []
  trace     := []
  reads     := []
  lastEvent := none

/-- The state after reset of a run with parameters `p` (R123). -/
def State.resetWith (p : Params) : State where
  par     := p
  vrf     := Vrf.reset
  slots   := ⟨.empty, .empty, .empty⟩
  eng     := Eng.reset
  port    := portAtReset
  outcome := .none
  mem     := p.mem0
  env     := Env.quiet
  hist    := Hist.empty

/-- The state after reset under the reference parameters (log 4, log 5). -/
def State.reset : State := State.resetWith Config.reference

end Sys2Proof.Machine
end

