-- ==== Sys2Proof/Machine/Ops.lean ====
section
/-! DEFINITION. The named operations: data memory (R36), the port's primitives (R7), free values, the sticky
record (R113) and a command's return (R63). The block has no trap, so no exception entry stands here: R106 and R117
say that nothing is saved and nothing is vectored. -/

namespace Sys2Proof

/-- The byte at `a` (R36). -/
def Memory.read : Memory → Nat → Byte
  | [], _ => Config.unlistedByte
  | (b, x) :: rest, a => if a = b then x else Memory.read rest a

/-- Memory with `v` stored at `a` (R36), in canonical form again. -/
def Memory.write : Memory → Nat → Byte → Memory
  | [], a, v => if v = Config.unlistedByte then [] else [(a, v)]
  | (b, x) :: rest, a, v =>
    if a < b then (if v = Config.unlistedByte then (b, x) :: rest else (a, v) :: (b, x) :: rest)
    else if a = b then (if v = Config.unlistedByte then rest else (a, v) :: rest)
    else (b, x) :: Memory.write rest a v

/-- Addresses rise strictly from at least `lo`, and no listed byte equals what an unlisted address reads as. -/
def Memory.wfFrom (lo : Nat) : Memory → Bool
  | [] => true
  | (a, v) :: rest => decide (lo ≤ a) && decide (v ≠ Config.unlistedByte) && Memory.wfFrom (a + 1) rest

/-- The canonical form of memory. -/
def Memory.wf (m : Memory) : Bool := Memory.wfFrom 0 m

/-- Every listed address lies below `hi`. -/
def Memory.below (hi : Nat) (m : Memory) : Bool := m.all (fun c => decide (c.1 < hi))

/-- A run's parameters are in the ranges of R5, and `MEM0` is in canonical form inside memory. -/
def Params.wf (p : Params) : Bool :=
  decide (1 ≤ p.cntW) && decide (p.cntW ≤ 16) && decide (1 ≤ p.addrW) && decide (p.addrW ≤ 16) &&
    p.mem0.wf && p.mem0.below (2 ^ p.addrW)

/-- A value as the `CNT_W`-bit register CNT holds it (R24). -/
def Params.cntTrunc (p : Params) (c : Half) : Half := BitVec.ofNat 16 (c.toNat % 2 ^ p.cntW)

end Sys2Proof

namespace Sys2Proof.Machine

/-! ### Data memory -/

/-- `MemRead(a, 1)` (R7, R36); an address that does not exist faults (log 11). -/
def State.readByte (s : State) (a : Nat) : Except Fault Byte :=
  if a < 2 ^ s.par.addrW then .ok (s.mem.read a) else .error (.noSuchAddress a)

/-- `MemWrite(a, 1, v)` (R7, R36); an address that does not exist faults (log 11). -/
def State.writeByte (s : State) (a : Nat) (v : Byte) : Except Fault State :=
  if a < 2 ^ s.par.addrW then .ok { s with mem := s.mem.write a v } else .error (.noSuchAddress a)

/-! ### The port (R7, R22 to R30). Every access is recorded in `hist.trace`. -/

/-- Record a port access. -/
def State.traced (s : State) (x : PortAccess) : State :=
  { s with hist := { s.hist with trace := s.hist.trace ++ [x] } }

/-- `PortWrite(ADDR, v)` (R23). -/
def State.portWriteAddr (s : State) (v : Byte) : State :=
  { s with port := { s.port with addr := v } }.traced (.writeAddr v)

/-- `PortWrite(CNT, v)` (R24). -/
def State.portWriteCnt (s : State) (v : Half) : State :=
  { s with port := { s.port with cnt := v } }.traced (.writeCnt v)

/-- `PortWrite(TXB, v)` (R25). -/
def State.portWriteTxb (s : State) (v : Byte) : State :=
  { s with port := { s.port with txb := v } }.traced (.writeTxb v)

/-- `PortWrite(RSEN, 1)` (R27); no command writes 0 (R82). -/
def State.portWriteRsen (s : State) : State :=
  { s with port := { s.port with rsen := true } }.traced .writeRsen

/-- `PortWrite(START, 1)` (R28). -/
def State.portStart (s : State) : State :=
  { s with port := { s.port with start := true } }.traced .start

/-- `PortClearStop()` (R30). -/
def State.portClearStop (s : State) : State :=
  { s with port := { s.port with stopf := false } }.traced .clearStop

/-- The poll's answer: the port's next one, and a free value past the script's end (log 3). -/
def State.pollAnswer (s : State) : Snapshot := s.env.polls.headD (Config.freePoll s.env.inst s.env.drawn)

/-- `PortPoll()` (R29, R64): the state after it. -/
def State.polled (s : State) : State :=
  { s with port := { s.port with status := s.pollAnswer },
           env := { s.env with polls := s.env.polls.tail, drawn := s.env.drawn + 1 } }.traced (.poll s.pollAnswer)

/-- The byte a read of RXB answers (R26, log 3). -/
def State.rxbAnswer (s : State) : Byte := s.env.rxbs.headD (Config.freeRxb s.env.inst s.env.drawn)

/-- `PortRead(RXB)` (R26, R41): the state after it. -/
def State.rxbRead (s : State) : State :=
  { s with port := { s.port with rxb := s.rxbAnswer },
           env := { s.env with rxbs := s.env.rxbs.tail, drawn := s.env.drawn + 1 } }.traced (.readRxb s.rxbAnswer)

/-- The count a read of CNT answers (R24, log 3), `CNT_W` bits of it. -/
def State.cntAnswer (s : State) : Half := s.par.cntTrunc (s.env.cnts.headD (Config.freeCnt s.env.inst s.env.drawn))

/-- `PortRead(CNT)` (R24): the state after it. -/
def State.cntRead (s : State) : State :=
  { s with port := { s.port with cnt := s.cntAnswer },
           env := { s.env with cnts := s.env.cnts.tail, drawn := s.env.drawn + 1 } }.traced (.readCnt s.cntAnswer)

/-- `draw byte` (R7): any byte (log 3). -/
def State.drawAnswer (s : State) : Byte := s.env.draws.headD (Config.freeByte s.env.inst s.env.drawn)

/-- The state after a `draw byte`. -/
def State.drew (s : State) : State :=
  { s with env := { s.env with draws := s.env.draws.tail, drawn := s.env.drawn + 1 } }

/-! ### The engine's registers -/

/-- Set the working registers (R21). -/
def State.setWork (s : State) (w : Work) : State := { s with eng := { s.eng with work := w } }

/-- `seq <- q` (R7, R20). -/
def State.goto (s : State) (q : SeqPos) : State := { s with eng := { s.eng with seq := q } }

/-- `eng.i <- eng.i + 1`. -/
def State.bumpI (s : State) : State := s.setWork { s.eng.work with i := s.eng.work.i + 1 }

/-- A command's return (R63): busy and seq are cleared, the caller gets the result, and the working registers hold
no value from here on (free values, log 7). -/
def State.finish (s : State) (r : Result) : State :=
  { s with eng := { busy := false, seq := .idle, work := Config.freeWork s.env.inst s.env.drawn },
           env := { s.env with drawn := s.env.drawn + 1 },
           hist := { s.hist with results := s.hist.results ++ [r] } }

/-! ### Outcomes -/

/-- A result that may only fault, as a step's outcome (R8). -/
def ofExcept : Except Fault State → Host.Outcome State Fault Refusal
  | .ok s => .next s
  | .error f => .fault f

/-- R113: the first fault or refusal is recorded, a later one is not; nothing else changes. -/
def State.record (s : State) (r : Record) : State :=
  match s.outcome with
  | .none => { s with outcome := r }
  | _ => s

/-- A device reset (R123): every piece of the instance's state takes its reset value, memory is `MEM0`, a command in
progress is abandoned with no result. The port's registers are unspecified (free values) and what the outside world
still does, and what was recorded, is not the block's to reset (log 8). -/
def State.deviceReset (s : State) : State :=
  let regs := Config.freePort s.env.inst s.env.drawn
  { State.resetWith s.par with
    port := { regs with cnt := s.par.cntTrunc regs.cnt },
    env := { s.env with drawn := s.env.drawn + 1 },
    hist := s.hist }

end Sys2Proof.Machine
end

