-- ==== Sys2Proof/Machine/Operands.lean ====
section
/-! DEFINITION. Operand assembly and the range checks on operands (R44, R54 to R57). -/

namespace Sys2Proof.Machine

/-- `addrbyte(a7, rw)` (R55): a7 in bits 7:1 and the direction in bit 0, true meaning read. PRESUMED (log 15): R55
marks the layout as general knowledge. -/
def addrbyte (a7 : BusAddr) (rw : Bool) : Byte :=
  ((a7.zeroExtend 8) <<< 1) ||| (if rw then 1#8 else 0#8)

/-- The cursor an address byte sets (R56): zero-extended, neither masked nor clamped. -/
def cursorOfByte (d : Byte) : Nat := d.toNat

/-- A buffer of `n` bytes at `ptr` lies inside data memory (R44), and `ptr` is a data-memory address (R57; log 12). -/
def bufferInRange (p : Params) (ptr n : Half) : Bool :=
  decide (ptr.toNat < 2 ^ p.addrW) && decide (ptr.toNat + n.toNat ≤ 2 ^ p.addrW)

/-- The handler HSEL:HID names (R54, R96). -/
def handlerOf (hsel : HSel) (hid : BitVec 6) : Handler :=
  match hsel with
  | .vrf => .vrf
  | .custom => .custom hid

/-- The commands whose length is the operand N; the others have an implicit length of 1 (R57, R62). -/
def hasPayload : CtrlOp → Bool
  | .sendbyte => false
  | .sendbytes => true
  | .readbyte => false
  | .readbytes => true
  | .regwrrd => true

/-- The length the entry stores in `eng.n` (R62). -/
def lengthOf (op : CtrlOp) (n : Half) : Half := if hasPayload op then n else 1#16

/-- The range checks of R62 on a controller command's operands, in their order. -/
def operandRefusal (p : Params) (op : CtrlOp) (ptr n : Half) : Option Refusal :=
  if hasPayload op then
    if n = 0#16 then some .zeroLength
    else if 2 ^ p.cntW ≤ n.toNat then some .lengthTooLarge
    else if 2 ^ p.addrW < ptr.toNat + n.toNat then some .bufferOutOfRange
    else none
  else none

end Sys2Proof.Machine
end

