-- ==== Sys2Proof/Machine/Controller.lean ====
section
/-! DEFINITION. The controller commands' entry (R62). A command is not atomic (R9): the word runs the entry, and each
labelled line after it is one step of the engine (Machine/Engine.lean; log 1). -/

namespace Sys2Proof.Machine

/-- The working registers at a command's entry (R62). -/
def entryWork (w : Work) (op : CtrlOp) (a7 : BusAddr) (d8 : Byte) (ptr n : Half) : Work :=
  { w with op := op, a7 := a7, d8 := d8, ptr := ptr, n := lengthOf op n, i := 0, phase := .A }

/-- The state a command's entry leaves (R62): busy, the working registers, the first line. -/
def State.entered (s : State) (op : CtrlOp) (a7 : BusAddr) (d8 : Byte) (ptr n : Half) (first : SeqPos) : State :=
  { s with eng := { busy := true, seq := first, work := entryWork s.eng.work op a7 d8 ptr n } }

/-- The common entry (R62): the checks in their order, then the engine's initialisation. A field that the
command's format does not use is 0 (R51). -/
def enter (op : CtrlOp) (a7 : BusAddr) (d8 : Byte) (ptr n : Half) (first : SeqPos) (s : State) :
    Host.Outcome State Fault Refusal :=
  if s.par.role ≠ .controller then .refused .roleMismatch
  else if s.eng.busy = true then .fault .concurrentCall
  else
    match operandRefusal s.par op ptr n with
    | some r => .refused r
    | none => .next (s.entered op a7 d8 ptr n first)

/-- SENDBYTE a7, data (R66). -/
def execSendbyte (a7 : BusAddr) (d8 : Byte) (s : State) : Host.Outcome State Fault Refusal :=
  enter .sendbyte a7 d8 0#16 0#16 (.sendbyte .L1) s

/-- SENDBYTES a7, ptr, len (R67). -/
def execSendbytes (a7 : BusAddr) (ptr n : Half) (s : State) : Host.Outcome State Fault Refusal :=
  enter .sendbytes a7 0#8 ptr n (.sendbytes .L1) s

/-- READBYTE a7 (R68). -/
def execReadbyte (a7 : BusAddr) (s : State) : Host.Outcome State Fault Refusal :=
  enter .readbyte a7 0#8 0#16 0#16 (.readbyte .L1) s

/-- READBYTES a7, ptr, len (R69). -/
def execReadbytes (a7 : BusAddr) (ptr n : Half) (s : State) : Host.Outcome State Fault Refusal :=
  enter .readbytes a7 0#8 ptr n (.readbytes .L1) s

/-- REGWRRD a7, reg, ptr, len (R70). -/
def execRegwrrd (a7 : BusAddr) (d8 : Byte) (ptr n : Half) (s : State) : Host.Outcome State Fault Refusal :=
  enter .regwrrd a7 d8 ptr n (.regwrrd .L1) s

end Sys2Proof.Machine
end

