-- ==== Sys2Proof/Machine/Flags.lean ====
section
/-! DEFINITION. The flag computations (R32): the success criterion and the VRF's phase flags. -/

namespace Sys2Proof.Machine

/-- The success criterion (R65): the remaining count reads zero. -/
def countOk (c : Half) : Bool := c == 0#16

/-- `eng.ok <- (PortRead(CNT) == 0)` (R65). -/
def State.checkCount (s : State) : State :=
  s.cntRead.setWork { s.eng.work with ok := countOk s.cntAnswer }

/-- The flags after a written address byte (R85): the cursor is that byte, the flag is cleared. -/
def Vrf.takeAddress (v : Vrf) (c : Nat) : Vrf := { v with cursor := c, isAddressByte := false, dir := .write }

/-- The flags after a written data byte (R85), stored or discarded. -/
def Vrf.markWrite (v : Vrf) : Vrf := { v with dir := .write }

/-- The flags after a requested byte (R86). -/
def Vrf.markRead (v : Vrf) : Vrf := { v with hadRead := true, dir := .read }

/-- The cursor after a stop (R87): the pre-load is undone in address-prefixed mode, 0 in flat-stream mode. -/
def Vrf.stopCursor (v : Vrf) (m : Mode) : Nat :=
  match m with
  | .addressPrefixed => if v.hadRead = true ∧ v.cursor ≠ 0 then v.cursor - 1 else v.cursor
  | .flatStream => 0

/-- The VRF after a stop (R87). -/
def Vrf.stopped (v : Vrf) (m : Mode) : Vrf :=
  { v with cursor := v.stopCursor m, isAddressByte := true, hadRead := false, dir := .none }

end Sys2Proof.Machine
end

