-- ==== Sys2Proof/Machine/Vrf.lean ====
section
/-! DEFINITION. The Virtual Register File (R83 to R88): the buffer bindings, the three per-event operations, and the
direct VRF words (class 3) that run them without dispatch. -/

namespace Sys2Proof.Machine

/-- VRF_STORE(d) (R85). -/
def vrfStoreOp (d : Byte) (s : State) : Except Fault State :=
  if s.vrf.wbound = false then .error (.bufferUnbound .write)
  else if s.vrf.dir = .read then .error .mixedDirection
  else if s.par.mode = .addressPrefixed ∧ s.vrf.isAddressByte = true then
    .ok { s with vrf := s.vrf.takeAddress (cursorOfByte d) }
  else if s.vrf.cursor < s.vrf.wsize then
    match s.writeByte (s.vrf.wbase.toNat + s.vrf.cursor) d with
    | .ok t => .ok { t with vrf := { s.vrf.markWrite with cursor := s.vrf.cursor + 1 } }
    | .error f => .error f
  else .ok { s with vrf := s.vrf.markWrite }

/-- VRF_REQUEST() (R86): the byte it returns and the state after it. -/
def vrfRequestOp (s : State) : Except Fault (Byte × State) :=
  if s.vrf.rbound = false then .error (.bufferUnbound .read)
  else if s.vrf.cursor < s.vrf.rsize then
    match s.readByte (s.vrf.rbase.toNat + s.vrf.cursor) with
    | .ok v => .ok (v, { s with vrf := { s.vrf.markRead with cursor := s.vrf.cursor + 1 } })
    | .error f => .error f
  else .ok (Config.sentinel, { s with vrf := { s.vrf.markRead with cursor := s.vrf.rsize + 1 } })

/-- VRF_STOP() (R87). -/
def vrfStopOp (s : State) : State := { s with vrf := s.vrf.stopped s.par.mode }

/-- SETWBUF ptr, size (R83). -/
def execSetwbuf (ptr n : Half) (s : State) : Host.Outcome State Fault Refusal :=
  if bufferInRange s.par ptr n then
    .next { s with vrf := { s.vrf with wbase := ptr, wsize := n.toNat, wbound := true } }
  else .refused .bufferOutOfRange

/-- SETRBUF ptr, size (R84). -/
def execSetrbuf (ptr n : Half) (s : State) : Host.Outcome State Fault Refusal :=
  if bufferInRange s.par ptr n then
    .next { s with vrf := { s.vrf with rbase := ptr, rsize := n.toNat, rbound := true } }
  else .refused .bufferOutOfRange

/-- The word VRF_STORE data (R85, R52 class 3). -/
def execVrfStore (d : Byte) (s : State) : Host.Outcome State Fault Refusal := ofExcept (vrfStoreOp d s)

/-- The word VRF_REQUEST (R86, R52 class 3): the byte goes to the caller. -/
def execVrfRequest (s : State) : Host.Outcome State Fault Refusal :=
  match vrfRequestOp s with
  | .ok (v, t) => .next { t with hist := { t.hist with results := t.hist.results ++ [.vrfByte v] } }
  | .error f => .fault f

/-- The word VRF_STOP (R87, R52 class 3). -/
def execVrfStop (s : State) : Host.Outcome State Fault Refusal := .next (vrfStopOp s)

end Sys2Proof.Machine
end

