-- ==== Sys2Proof/Machine/Events.lean ====
section
/-! DEFINITION. The Event Dispatch boundary (R96 to R105): registration, and the three event words, each one atomic
step: role check, slot, handler, and the TXB load or the stop clear (R103). -/

namespace Sys2Proof.Machine

/-- REGW handler (R96). -/
def execRegw (hsel : HSel) (hid : BitVec 6) (s : State) : Host.Outcome State Fault Refusal :=
  .next { s with slots := { s.slots with write := handlerOf hsel hid } }

/-- REGR handler (R97). -/
def execRegr (hsel : HSel) (hid : BitVec 6) (s : State) : Host.Outcome State Fault Refusal :=
  .next { s with slots := { s.slots with read := handlerOf hsel hid } }

/-- REGS handler (R98). -/
def execRegs (hsel : HSel) (hid : BitVec 6) (s : State) : Host.Outcome State Fault Refusal :=
  .next { s with slots := { s.slots with stop := handlerOf hsel hid } }

/-- The event that was delivered last (R135 item 3). -/
def State.delivered (s : State) (k : EventKind) : State := { s with hist := { s.hist with lastEvent := some k } }

/-- The answer of EV_REQUESTED is loaded into TXB (R100) and recorded (R135). -/
def State.answer (s : State) (v : Byte) : State :=
  let t := s.portWriteTxb v
  { t with hist := { t.hist with txLoads := t.hist.txLoads ++ [v] } }

/-- EV_WRITTEN data (R99). A custom handler changes nothing of the block and writes no memory (R102, log 13). -/
def execEvWritten (d : Byte) (s : State) : Host.Outcome State Fault Refusal :=
  if s.par.role ≠ .target then .refused .roleMismatch
  else
    match s.slots.write with
    | .empty => .fault (.noHandler .written)
    | .vrf =>
      match vrfStoreOp d s with
      | .ok t => .next (t.delivered .written)
      | .error f => .fault f
    | .custom _ => .next (s.delivered .written)

/-- EV_REQUESTED (R100). A custom handler's answer is any byte (R102, log 13). -/
def execEvRequested (s : State) : Host.Outcome State Fault Refusal :=
  if s.par.role ≠ .target then .refused .roleMismatch
  else
    match s.slots.read with
    | .empty => .fault (.noHandler .requested)
    | .vrf =>
      match vrfRequestOp s with
      | .ok (v, t) => .next ((t.answer v).delivered .requested)
      | .error f => .fault f
    | .custom _ => .next ((s.drew.answer s.drawAnswer).delivered .requested)

/-- EV_STOPPED (R101): the stop flag is cleared after the handler. -/
def execEvStopped (s : State) : Host.Outcome State Fault Refusal :=
  if s.par.role ≠ .target then .refused .roleMismatch
  else
    match s.slots.stop with
    | .empty => .fault (.noHandler .stopped)
    | .vrf => .next ((vrfStopOp s).portClearStop.delivered .stopped)
    | .custom _ => .next (s.portClearStop.delivered .stopped)

end Sys2Proof.Machine
end

