-- ==== Sys2Proof/Machine/Dispatch.lean ====
section
/-! DEFINITION. One arm for each instruction: its meaning. -/

namespace Sys2Proof.Machine

def exec (i : Instr) (s : State) : Host.Outcome State Fault Refusal :=
  match i with
  | .setwbuf ptr n => Sys2Proof.Machine.execSetwbuf ptr n s
  | .setrbuf ptr n => Sys2Proof.Machine.execSetrbuf ptr n s
  | .regw hsel hid => Sys2Proof.Machine.execRegw hsel hid s
  | .regr hsel hid => Sys2Proof.Machine.execRegr hsel hid s
  | .regs hsel hid => Sys2Proof.Machine.execRegs hsel hid s
  | .sendbyte a7 d8 => Sys2Proof.Machine.execSendbyte a7 d8 s
  | .sendbytes a7 ptr n => Sys2Proof.Machine.execSendbytes a7 ptr n s
  | .readbyte a7 => Sys2Proof.Machine.execReadbyte a7 s
  | .readbytes a7 ptr n => Sys2Proof.Machine.execReadbytes a7 ptr n s
  | .regwrrd a7 d8 ptr n => Sys2Proof.Machine.execRegwrrd a7 d8 ptr n s
  | .evWritten d8 => Sys2Proof.Machine.execEvWritten d8 s
  | .evRequested => Sys2Proof.Machine.execEvRequested s
  | .evStopped => Sys2Proof.Machine.execEvStopped s
  | .vrfStore d8 => Sys2Proof.Machine.execVrfStore d8 s
  | .vrfRequest => Sys2Proof.Machine.execVrfRequest s
  | .vrfStop => Sys2Proof.Machine.execVrfStop s

end Sys2Proof.Machine
end

