-- ==== Sys2Proof/Machine/Engine.lean ====
section
/-! DEFINITION. The engine sequencer: the labelled lines of R66 to R71, one step each (R20, R45). -/

namespace Sys2Proof.Machine

/-- `PortWrite(TXB, MemRead(eng.ptr + k, 1))` (R67): the byte is read at the step that loads it (R48). -/
def loadPayload (k : Nat) (s : State) : Except Fault State :=
  match s.readByte (s.eng.work.ptr.toNat + k) with
  | .ok v => .ok (s.portWriteTxb v)
  | .error f => .error f

/-- `MemWrite(eng.ptr + eng.i, 1, PortRead(RXB)); eng.i <- eng.i + 1` (R69 to R71). -/
def storePayload (s : State) : Except Fault State :=
  match s.rxbRead.writeByte (s.eng.work.ptr.toNat + s.eng.work.i) s.rxbAnswer with
  | .ok t => .ok t.bumpI
  | .error f => .error f

/-- `eng.rbyte <- PortRead(RXB); eng.i <- eng.i + 1` (R68, R71). -/
def takeByte (s : State) : State :=
  s.rxbRead.setWork { s.eng.work with rbyte := s.rxbAnswer, i := s.eng.work.i + 1 }

/-- Then go to line `q`. -/
def thenGoto (r : Except Fault State) (q : SeqPos) : Except Fault State :=
  match r with
  | .ok t => .ok (t.goto q)
  | .error f => .error f

/-- The drain (R71), shared by the commands that run it: `own d` is the command's position at the drain's line `d`,
`back` the line after the drain, `unload` the destination of D3. -/
def drainLine (own : DrainLine → SeqPos) (back : SeqPos) (unload : State → Except Fault State) (d : DrainLine)
    (s : State) : Except Fault State :=
  match d with
  | .D1 =>
    if s.eng.work.n.toNat ≤ s.eng.work.i then .error (.drainOverrun (own .D1)) else .ok (s.goto (own .D2))
  | .D2 =>
    if s.par.drainWaits then
      .ok (s.polled.goto (if s.pollAnswer.rxbf then own .D3 else own .D2))
    else .ok (s.goto (own .D3))
  | .D3 => thenGoto (unload s) back

/-- The lines of SENDBYTE (R66). -/
def sendbyteLine (l : SendbyteLine) (s : State) : Except Fault State :=
  match l with
  | .L1 => .ok ((s.portWriteAddr (addrbyte s.eng.work.a7 false)).goto (.sendbyte .L2))
  | .L2 => .ok ((s.portWriteCnt 1#16).goto (.sendbyte .L3))
  | .L3 => .ok ((s.portWriteTxb s.eng.work.d8).goto (.sendbyte .L4))
  | .L4 => .ok ((s.portStart.setWork { s.eng.work with i := 1 }).goto (.sendbyte .L5))
  | .L5 => .ok (s.polled.goto (if s.pollAnswer.active then .sendbyte .L5 else .sendbyte .L6))
  | .L6 => .ok (s.checkCount.goto (.sendbyte .L7))
  | .L7 => .ok (s.finish (.success .sendbyte s.eng.work.ok))

/-- The lines of SENDBYTES (R67). -/
def sendbytesLine (l : SendbytesLine) (s : State) : Except Fault State :=
  match l with
  | .L1 => .ok ((s.portWriteAddr (addrbyte s.eng.work.a7 false)).goto (.sendbytes .L2))
  | .L2 => .ok ((s.portWriteCnt s.eng.work.n).goto (.sendbytes .L3))
  | .L3 => thenGoto (loadPayload 0 s) (.sendbytes .L4)
  | .L4 => .ok ((s.portStart.setWork { s.eng.work with i := 1 }).goto (.sendbytes .L5))
  | .L5 =>
    .ok (s.polled.goto
      (if s.pollAnswer.active = false then .sendbytes .L7
       else if s.pollAnswer.txbe = true ∧ s.eng.work.i < s.eng.work.n.toNat then .sendbytes .L6
       else .sendbytes .L5))
  | .L6 =>
    match loadPayload s.eng.work.i s with
    | .ok t => .ok (t.bumpI.goto (.sendbytes .L5))
    | .error f => .error f
  | .L7 => .ok (s.checkCount.goto (.sendbytes .L8))
  | .L8 => .ok (s.finish (.success .sendbytes s.eng.work.ok))

/-- The lines of READBYTE (R68). -/
def readbyteLine (l : ReadbyteLine) (s : State) : Except Fault State :=
  match l with
  | .L1 => .ok ((s.portWriteAddr (addrbyte s.eng.work.a7 true)).goto (.readbyte .L2))
  | .L2 => .ok ((s.portWriteCnt 1#16).goto (.readbyte .L3))
  | .L3 =>
    .ok ((s.portStart.drew.setWork { s.eng.work with i := 0, rbyte := s.drawAnswer }).goto (.readbyte .L4))
  | .L4 =>
    .ok (s.polled.goto
      (if s.pollAnswer.active = false then .readbyte .L6
       else if s.pollAnswer.rxbf = true then .readbyte .L5
       else .readbyte .L4))
  | .L5 =>
    if 1 ≤ s.eng.work.i then .error (.portOverrun (.readbyte .L5))
    else .ok ((takeByte s).goto (.readbyte .L4))
  | .L6 => .ok (s.goto (if s.par.readbytesDrain then .readbyte (.drain .D1) else .readbyte .L7))
  | .L7 => .ok (s.finish (.byte s.eng.work.rbyte))
  | .drain d => drainLine (fun d => .readbyte (.drain d)) (.readbyte .L7) (fun t => .ok (takeByte t)) d s

/-- The lines of READBYTES (R69). -/
def readbytesLine (l : ReadbytesLine) (s : State) : Except Fault State :=
  match l with
  | .L1 => .ok ((s.portWriteAddr (addrbyte s.eng.work.a7 true)).goto (.readbytes .L2))
  | .L2 => .ok ((s.portWriteCnt s.eng.work.n).goto (.readbytes .L3))
  | .L3 => .ok ((s.portStart.setWork { s.eng.work with i := 0 }).goto (.readbytes .L4))
  | .L4 =>
    .ok (s.polled.goto
      (if s.pollAnswer.active = false then .readbytes .L6
       else if s.pollAnswer.rxbf = true then .readbytes .L5
       else .readbytes .L4))
  | .L5 =>
    if s.eng.work.n.toNat ≤ s.eng.work.i then .error (.portOverrun (.readbytes .L5))
    else thenGoto (storePayload s) (.readbytes .L4)
  | .L6 => .ok (s.goto (if s.par.readbytesDrain then .readbytes (.drain .D1) else .readbytes .L7))
  | .L7 => .ok (s.checkCount.goto (.readbytes .L8))
  | .L8 => .ok (s.finish (.success .readbytes s.eng.work.ok))
  | .drain d => drainLine (fun d => .readbytes (.drain d)) (.readbytes .L7) storePayload d s

/-- The line after a poll in REGWRRD's loop (R70 L6): idle first, then a byte before a free transmit register in
phase A (D17), then a byte in phase B. -/
def regwrrdBranch (st : Snapshot) (ph : Phase) : RegwrrdLine :=
  if st.active = false then .L12
  else
    match ph with
    | .A => if st.rxbf = true then .L7 else if st.txbe = true then .L8 else .L6
    | .B => if st.rxbf = true then .L11 else .L6

/-- The lines of REGWRRD (R70). -/
def regwrrdLine (l : RegwrrdLine) (s : State) : Except Fault State :=
  match l with
  | .L1 => .ok ((s.portWriteAddr (addrbyte s.eng.work.a7 false)).goto (.regwrrd .L2))
  | .L2 => .ok ((s.portWriteTxb s.eng.work.d8).goto (.regwrrd .L3))
  | .L3 => .ok ((s.portWriteCnt 1#16).goto (.regwrrd .L4))
  | .L4 => .ok (s.portWriteRsen.goto (.regwrrd .L5))
  | .L5 => .ok ((s.portStart.setWork { s.eng.work with phase := .A, i := 0 }).goto (.regwrrd .L6))
  | .L6 => .ok (s.polled.goto (.regwrrd (regwrrdBranch s.pollAnswer s.eng.work.phase)))
  | .L7 => .ok (s.rxbRead.goto (.regwrrd .L6))
  | .L8 => .ok ((s.portWriteAddr (addrbyte s.eng.work.a7 false ^^^ 1#8)).goto (.regwrrd .L9))
  | .L9 => .ok ((s.portWriteCnt s.eng.work.n).goto (.regwrrd .L10))
  | .L10 => .ok ((s.portStart.setWork { s.eng.work with phase := .B }).goto (.regwrrd .L6))
  | .L11 =>
    if s.eng.work.n.toNat ≤ s.eng.work.i then .error (.portOverrun (.regwrrd .L11))
    else thenGoto (storePayload s) (.regwrrd .L6)
  | .L12 => .ok (s.goto (.regwrrd (.drain .D1)))
  | .L13 => .ok (s.checkCount.goto (.regwrrd .L14))
  | .L14 => .ok (s.finish (.success .regwrrd s.eng.work.ok))
  | .drain d => drainLine (fun d => .regwrrd (.drain d)) (.regwrrd .L13) storePayload d s

/-- One engine step (R20): the line `eng.seq` names. With `eng.seq` IDLE there is none, and nothing changes. -/
def engineLine (s : State) : Except Fault State :=
  match s.eng.seq with
  | .idle => .ok s
  | .sendbyte l => sendbyteLine l s
  | .sendbytes l => sendbytesLine l s
  | .readbyte l => readbyteLine l s
  | .readbytes l => readbytesLine l s
  | .regwrrd l => regwrrdLine l s

/-- `k` engine steps, stopping at the first fault. -/
def engineLines : Nat → State → Except Fault State
  | 0, s => .ok s
  | k + 1, s =>
    match engineLine s with
    | .ok t => engineLines k t
    | .error f => .error f

end Sys2Proof.Machine
end

