-- ==== Sys2Proof/Machine/Agents.lean ====
section
/-! DEFINITION. The agents (R4) and their interleaving (R45): which agent moves, what its move is, and the move. -/

namespace Sys2Proof.Machine

/-- What the agent whose turn it is does. -/
inductive Move where
  | act (x : Action)
  | port (x : PortAction)
  | engine
  | reset
deriving DecidableEq, Repr

/-- The refusal that decode raises (R112). -/
def refusalOf : DecodeError → Refusal
  | .reservedOpcode => .reservedOpcode
  | .reservedField => .reservedField
  | .reservedHandlerSelect => .reservedHandlerSelect

/-- Run a command word: decode it (R53), then its meaning. Every issuer is admitted (R119; log 22). -/
def runWord (cw : CmdWord) (s : State) : Host.Outcome State Fault Refusal :=
  match decode cw with
  | .ok i => exec i s
  | .error e => .refused (refusalOf e)

/-- No fault or refusal is recorded: the instance's agents may move (R113). -/
def State.running (s : State) : Bool := s.outcome == .none

/-- Whether an agent has a step to take. The foreground is blocked while a command runs (R4), the port delivers no
event while delivery is masked (R47), and after a fault or refusal only the device reset is left (R113).
DESIGN CHOICE (log 28): R4 blocks the foreground that called the command, and R130 lets another caller issue one; here
any running command blocks `env.fg`, whoever issued it, and no command blocks `env.other`, also not its own. A
foreground that a command of another caller leaves free is one of the callers of `env.other`. -/
def enabled (s : State) : Agent → Bool
  | .foreground => s.running && !s.eng.busy && !s.env.fg.isEmpty
  | .engine => s.running && s.eng.seq != .idle
  | .port =>
    s.running &&
      match s.env.port with
      | [] => false
      | .deliver _ :: _ => !s.env.masked
      | .drive _ :: _ => true
  | .other => s.running && !s.env.other.isEmpty
  | .device => decide (0 < s.env.resets)

/-- The order that decides where `env.turns` does not (log 2). Each agent before the engine uses up an input, so no
agent that can move waits for ever (R134). -/
def agentOrder : List Agent := [.port, .other, .foreground, .device, .engine]

/-- The agent that moves: the one whose turn it is, if it can, else the first of `agentOrder` that can. -/
def pickAgent (s : State) : Option Agent :=
  match s.env.turns with
  | [] => agentOrder.find? (enabled s)
  | a :: _ => if enabled s a then some a else agentOrder.find? (enabled s)

/-- The turn is used up. -/
def State.turnTaken (s : State) : State := { s with env := { s.env with turns := s.env.turns.tail } }

/-- The agent's move, and the state with its turn and its input used up. -/
def takeMove (s : State) (a : Agent) : Option (Move × State) :=
  let t := s.turnTaken
  match a with
  | .foreground =>
    match s.env.fg with
    | [] => none
    | x :: rest => some (.act x, { t with env := { t.env with fg := rest } })
  | .other =>
    match s.env.other with
    | [] => none
    | x :: rest => some (.act x, { t with env := { t.env with other := rest } })
  | .port =>
    match s.env.port with
    | [] => none
    | x :: rest => some (.port x, { t with env := { t.env with port := rest } })
  | .device => some (.reset, { t with env := { t.env with resets := t.env.resets - 1 } })
  | .engine => some (.engine, t)

/-- The next move of the instance, if some agent can move. -/
def nextMove (s : State) : Option (Move × State) :=
  match pickAgent s with
  | none => none
  | some a => takeMove s a

/-- Record what a foreground read saw. -/
def State.saw (s : State) (x : Seen) : State := { s with hist := { s.hist with reads := s.hist.reads ++ [x] } }

/-- What a read of one VRF field sees (R46). -/
def State.seen (s : State) : VrfField → Seen
  | .cursor => .cursor s.vrf.cursor
  | .isAddressByte => .isAddressByte s.vrf.isAddressByte
  | .hadRead => .hadRead s.vrf.hadRead

/-- One atomic step of the foreground or of another caller (R45, R46, R47). -/
def runAction (x : Action) (s : State) : Host.Outcome State Fault Refusal :=
  match x with
  | .issue cw => runWord cw s
  | .load a =>
    match s.readByte a.toNat with
    | .ok v => .next (s.saw (.byte a v))
    | .error f => .fault f
  | .store a v => ofExcept (s.writeByte a.toNat v)
  | .readVrf f => .next (s.saw (s.seen f))
  | .mask => .next { s with env := { s.env with masked := true } }
  | .unmask => .next { s with env := { s.env with masked := false } }

/-- One step of the port (R22, R60). -/
def runPortAction (x : PortAction) (s : State) : Host.Outcome State Fault Refusal :=
  match x with
  | .deliver cw => runWord cw s
  | .drive regs => .next { s with port := { regs with cnt := s.par.cntTrunc regs.cnt } }

/-- A move (R45: each is one atomic step). -/
def perform (m : Move) (s : State) : Host.Outcome State Fault Refusal :=
  match m with
  | .act x => runAction x s
  | .port x => runPortAction x s
  | .engine => ofExcept (engineLine s)
  | .reset => .next s.deviceReset

/-- What a step answers when no agent can move: an idle block takes no step and its state stays (R124; log 10); a
stopped one answers what it recorded (R113). -/
def atRest (s : State) : Host.Outcome State Fault Refusal :=
  match s.outcome with
  | .none => .next s
  | .fault f => .fault f
  | .refused r => .refused r

/-- The state after a step whose outcome is `o`, a stop recorded (R113): a faulted or refused step changes only
`outcome` (R111, R112). `t` is the state with the step's input used up. -/
def settled (t : State) (o : Host.Outcome State Fault Refusal) : State :=
  match o with
  | .next u => u
  | .fault f => t.record (.fault f)
  | .refused r => t.record (.refused r)

end Sys2Proof.Machine
end

