-- ==== Sys2Proof/Machine/Step.lean ====
section
/-! DEFINITION. One step of the instance, the same step with a stop recorded in the state, and how a word is put
where the next step takes it from. -/

namespace Sys2Proof.Machine

/-- One step (R8, R45): the next move of the agent that moves. -/
def step (s : State) : Host.Outcome State Fault Refusal :=
  match nextMove s with
  | none => atRest s
  | some (m, t) => perform m t

/-- One step with its fault or refusal recorded (R35, R113): never stops; a stopped instance stays as it is until a
device reset. -/
def advance (s : State) : State :=
  match nextMove s with
  | none => s
  | some (m, t) => settled t (perform m t)

/-- `s` with a command word as the next thing to run: it stands first among the inputs of a caller the engine does
not block, and that caller has the next turn (log 17). -/
def State.withFetchWord (s : State) (nbits w : Nat) : State :=
  { s with env := { s.env with other := .issue (BitVec.ofNat 64 (w % 2 ^ nbits)) :: s.env.other,
                               turns := .other :: s.env.turns } }

end Sys2Proof.Machine
end

