-- ==== Sys2Proof/Machine/System.lean ====
section
/-! DEFINITION. Several instances that share data memory (R122): each has its own state, port and parameters, and is
named by its index; memory is the one they share (R36). DESIGN CHOICE (log 30): R4 names one foreground and R122 none
per instance; here each instance has a foreground of its own, with its own mask, blocked by that instance's engine
only. -/

namespace Sys2Proof.Machine

/-- The instances, and the memory they share. An instance's own `mem` is what memory was when it last moved; it is
set to the shared memory before it moves again. All have one `ADDR_W`. -/
structure System where
  insts : List State
  mem   : Memory
deriving DecidableEq, Repr

/-- The state as instance `k` of a system whose memory is `m`: its own but for the memory it shares (R36) and the index
that names it (R122), so that its port's free answers are its own (log 31). -/
def State.asInstance (s : State) (k : Nat) (m : Memory) : State :=
  { s with mem := m, env := { s.env with inst := k } }

/-- Instance `k` takes one step on the shared memory (R45, R122); a stop is recorded in that instance (R113). -/
def sysStep (k : Nat) (y : System) : System :=
  match y.insts[k]? with
  | none => y
  | some s =>
    let t := advance (s.asInstance k y.mem)
    { insts := y.insts.set k t, mem := t.mem }

/-- A device reset restarts the whole device (R123): every instance, and the memory they share, which takes the
contents that the instances' parameters name (log 19: all name the same). -/
def sysReset (y : System) : System where
  insts := y.insts.mapIdx fun k s => (s.asInstance k y.mem).deviceReset
  mem   := (y.insts.head?.map (fun s => s.par.mem0)).getD []

/-- The instances move in the order `ks` gives: one interleaving (R45). -/
def sysRun : List Nat → System → System
  | [], y => y
  | k :: ks, y => sysRun ks (sysStep k y)

end Sys2Proof.Machine
end

