-- ==== Sys2Proof/Safety.lean ====
section
/-! DEFINITION. The terms claims use: the invariant of the machine, a good end of a run and its observation (R135), runs of
several operations, and what a conforming port answers (R74 to R79). -/

namespace Sys2Proof.Machine

/-! ### Runs -/

/-- The operations of a list in order, each one atomic step's meaning (R45), stopping at the first that stops. -/
def execAll : List Instr → State → Host.Outcome State Fault Refusal
  | [], s => .next s
  | i :: is, s =>
    match exec i s with
    | .next t => execAll is t
    | .fault f => .fault f
    | .refused r => .refused r

/-- Nothing but the engine and the blocked foreground has a step to take: no event, no other caller, no reset, no
turn given away, nothing recorded. -/
def Undisturbed (s : State) : Prop :=
  s.outcome = .none ∧ s.env.port = [] ∧ s.env.other = [] ∧ s.env.resets = 0 ∧ s.env.turns = []

/-- A controller command is admitted (R62): the role, no command running, operands in range. -/
def Admitted (s : State) (op : CtrlOp) (ptr n : Half) : Prop :=
  s.par.role = .controller ∧ s.eng.busy = false ∧
    (hasPayload op = true →
      1 ≤ n.toNat ∧ n.toNat < 2 ^ s.par.cntW ∧ ptr.toNat + n.toNat ≤ 2 ^ s.par.addrW)

/-- Every byte of memory reads as before. -/
def SameMemory (s t : State) : Prop := ∀ a, t.mem.read a = s.mem.read a

/-- Every byte of memory outside `[base, base + len)` reads as before. -/
def SameMemoryOutside (s t : State) (base len : Nat) : Prop :=
  ∀ a, a < base ∨ base + len ≤ a → t.mem.read a = s.mem.read a

/-- The engine's part of the state and the records may differ; nothing else the block or the run's parameters hold. -/
def SameBlock (s t : State) : Prop :=
  t.par = s.par ∧ t.vrf = s.vrf ∧ t.slots = s.slots ∧ t.outcome = s.outcome

/-- The inputs still to come are the same: no agent's turn or input was used up; and the instance is the same. -/
def SameInputs (s t : State) : Prop :=
  t.env.fg = s.env.fg ∧ t.env.port = s.env.port ∧ t.env.other = s.env.other ∧ t.env.resets = s.env.resets ∧
    t.env.turns = s.env.turns ∧ t.env.masked = s.env.masked ∧ t.env.inst = s.env.inst

/-! ### The invariant of every reachable state -/

/-- The command a sequencer position belongs to (R20). -/
def SeqPos.op : SeqPos → Option CtrlOp
  | .idle => none
  | .sendbyte _ => some .sendbyte
  | .sendbytes _ => some .sendbytes
  | .readbyte _ => some .readbyte
  | .readbytes _ => some .readbytes
  | .regwrrd _ => some .regwrrd

/-- The lines that are reached only with room for one more byte: `eng.i < eng.n` (R67 L6; R71 D2, D3 after D1). -/
def SeqPos.needsRoom : SeqPos → Bool
  | .sendbytes .L6 => true
  | .readbyte (.drain .D2) => true
  | .readbyte (.drain .D3) => true
  | .readbytes (.drain .D2) => true
  | .readbytes (.drain .D3) => true
  | .regwrrd (.drain .D2) => true
  | .regwrrd (.drain .D3) => true
  | _ => false

/-- What every reachable state satisfies. -/
structure Inv (s : State) : Prop where
  /-- The parameters are in R5's ranges. -/
  params : s.par.wf = true
  /-- Memory is in canonical form (log 4). -/
  memory : s.mem.wf = true
  /-- Memory lists only addresses that exist (R36). -/
  memoryBelow : s.mem.below (2 ^ s.par.addrW) = true
  /-- CNT holds a `CNT_W`-bit value (R24). -/
  count : s.port.cnt.toNat < 2 ^ s.par.cntW
  /-- The bound write buffer lies inside memory, below its capacity bound (R44, R83). -/
  wrange : s.vrf.wbound = true → s.vrf.wbase.toNat + s.vrf.wsize ≤ 2 ^ s.par.addrW
  wsize : s.vrf.wsize ≤ 65535
  /-- The bound read buffer lies inside memory (R44, R84). -/
  rrange : s.vrf.rbound = true → s.vrf.rbase.toNat + s.vrf.rsize ≤ 2 ^ s.par.addrW
  rsize : s.vrf.rsize ≤ 65535
  /-- The cursor fits in 17 bits (R95). -/
  cursor : s.vrf.cursor ≤ 65536
  /-- A read has occurred in the transaction exactly if the direction is READ (R14, R15). -/
  readDir : s.vrf.hadRead = true ↔ s.vrf.dir = .read
  /-- After a requested byte the cursor is at least 1 (R93). -/
  readCursor : s.vrf.hadRead = true → 1 ≤ s.vrf.cursor
  /-- From reset or a stop to the first byte the VRF awaits an address byte (R13). -/
  awaiting : s.vrf.dir = .none → s.vrf.isAddressByte = true
  /-- In address-prefixed mode the first written byte clears the flag (R13, R85). -/
  consumed : s.par.mode = .addressPrefixed → s.vrf.dir = .write → s.vrf.isAddressByte = false
  /-- In flat-stream mode nothing clears the flag (R85). -/
  flat : s.par.mode = .flatStream → s.vrf.isAddressByte = true
  /-- `eng.busy` says whether a command is in progress (R19, R62, R63). -/
  busy : s.eng.busy = true ↔ s.eng.seq ≠ .idle
  /-- Only a bus controller runs commands (R105). -/
  role : s.eng.busy = true → s.par.role = .controller
  /-- The running command's working registers (R21, R62). -/
  op : ∀ o, s.eng.seq.op = some o → s.eng.work.op = o
  length : s.eng.busy = true → 1 ≤ s.eng.work.n.toNat ∧ s.eng.work.n.toNat < 2 ^ s.par.cntW
  payload : s.eng.busy = true → hasPayload s.eng.work.op = true →
    s.eng.work.ptr.toNat + s.eng.work.n.toNat ≤ 2 ^ s.par.addrW
  index : s.eng.busy = true → s.eng.work.i ≤ s.eng.work.n.toNat
  room : s.eng.seq.needsRoom = true → s.eng.work.i < s.eng.work.n.toNat

/-- The capacity of the write buffer that is bound, 0 if none is (R95). -/
def Vrf.writeCapacity (v : Vrf) : Nat := if v.wbound then v.wsize else 0

/-- The capacity of the read buffer that is bound, 0 if none is (R95). -/
def Vrf.readCapacity (v : Vrf) : Nat := if v.rbound then v.rsize else 0

/-- The cursor bound of R95 for given largest capacities bound so far. -/
def CursorBound (W R : Nat) (s : State) : Prop :=
  s.vrf.cursor ≤ max 255 (max W (R + 1)) ∧ s.vrf.writeCapacity ≤ W ∧ s.vrf.readCapacity ≤ R

/-! ### The end of a run (R135) -/

/-- No command word is among a caller's actions still to come. -/
def NoWord (xs : List Action) : Prop := ∀ cw, Action.issue cw ∉ xs

/-- No event is among what the port still does; changes of its own registers may be. -/
def NoEvent (xs : List PortAction) : Prop := ∀ cw, PortAction.deliver cw ∉ xs

/-- A run ends well in `s` (R135). Item 4 asks for no further word and no further event; a load, a store, a change of
the mask or of a port register may still come. It names the foreground's words; a word that another caller issues to
this instance counts as well (log 28). -/
def EndsWell (s : State) : Prop :=
  s.outcome = .none ∧ s.eng.busy = false ∧ s.eng.seq = .idle ∧
    (s.par.role = .target →
      (s.hist.lastEvent = none ∨ s.hist.lastEvent = some .stopped) ∧
        s.vrf.dir = .none ∧ s.vrf.hadRead = false ∧ s.vrf.isAddressByte = true) ∧
    NoWord s.env.fg ∧ NoWord s.env.other ∧ NoEvent s.env.port

/-- The results the controller commands returned (R135). -/
def State.commandResults (s : State) : List Result :=
  s.hist.results.filter fun r =>
    match r with
    | .success _ _ => true
    | .byte _ => true
    | .vrfByte _ => false

/-- The observation at the end of a run (R135): the VRF fields, the bytes of memory, the results, the TXB loads. -/
structure Observation where
  cursor        : Nat
  isAddressByte : Bool
  hadRead       : Bool
  mem           : Memory
  results       : List Result
  txLoads       : List Byte
deriving DecidableEq, Repr

/-- What is observed of `s` (R135). -/
def State.observed (s : State) : Observation where
  cursor        := s.vrf.cursor
  isAddressByte := s.vrf.isAddressByte
  hadRead       := s.vrf.hadRead
  mem           := s.mem
  results       := s.commandResults
  txLoads       := s.hist.txLoads

/-! ### What a conforming port answers (R74 to R78), for the derived laws -/

/-- Every poll shows the transaction in progress (R74). -/
def AllActive (ps : List Snapshot) : Prop := ∀ p ∈ ps, p.active = true

/-- How many polls show a received byte. -/
def rxCount (ps : List Snapshot) : Nat := ps.countP (fun p => p.rxbf)

/-- The polls a drain makes (R71, R78): none, or with DRAIN_WAITS some that show no byte and then one that does. -/
def DrainPolls (waits : Bool) (ps : List Snapshot) : Prop :=
  match waits with
  | false => ps = []
  | true => ∃ empty full, ps = empty ++ [full] ∧ (∀ p ∈ empty, p.rxbf = false) ∧ full.rxbf = true

/-- The port's answers to a send (R74, R75): polls that show the transaction in progress, one that shows it ended, and
the remaining count. -/
structure SendScript (e : Env) (busy : List Snapshot) (last : Snapshot) (c : Half) : Prop where
  active : AllActive busy
  ended : last.active = false
  polls : ∃ rest, e.polls = busy ++ last :: rest
  count : ∃ rest, e.cnts = c :: rest

/-- The port's answers to a plain read (R74, R75, R78): as for a send, `loop` received bytes shown during it, and
`drained` the polls and bytes of the drain that `drains` asks for. -/
structure ReadScript (e : Env) (waits drains : Bool) (busy : List Snapshot) (last : Snapshot) (drain : List Snapshot)
    (bytes : List Byte) : Prop where
  active : AllActive busy
  ended : last.active = false
  polls : ∃ rest, e.polls = busy ++ last :: (drain ++ rest)
  drainPolls : if drains then DrainPolls waits drain else drain = []
  received : bytes.length = rxCount busy + (if drains then 1 else 0)
  rxbs : ∃ rest, e.rxbs = bytes ++ rest

/-- The port's answers to a combined read of `bytes` that succeeds (R74, R75, R78). `phaseA`: stale bytes or nothing
new; `go`: the transmit register is free, the bus held; `phaseB`: all but the last byte; `idle`: the transaction ended;
then the drain, and the count is zero. -/
structure CombinedScript (e : Env) (p : Params) (bytes : List Byte) : Prop where
  conforms : ∃ phaseA go phaseB idle drain stale restPolls restRxbs restCnts c,
    AllActive phaseA ∧ (∀ q ∈ phaseA, q.rxbf = true ∨ q.txbe = false) ∧
    go.active = true ∧ go.txbe = true ∧ go.rxbf = false ∧
    AllActive phaseB ∧ rxCount phaseB + 1 = bytes.length ∧
    idle.active = false ∧ DrainPolls p.drainWaits drain ∧
    stale.length = rxCount phaseA ∧
    e.polls = phaseA ++ go :: (phaseB ++ idle :: (drain ++ restPolls)) ∧
    e.rxbs = stale ++ bytes ++ restRxbs ∧
    e.cnts = c :: restCnts ∧ p.cntTrunc c = 0#16

/-- The port accesses of SENDBYTES's loop (R67): each poll, and after a poll that shows the transmit register free, a
load while bytes are left. -/
def sendTrace : List Byte → List Snapshot → List PortAccess
  | _, [] => []
  | [], p :: ps => .poll p :: sendTrace [] ps
  | b :: bs, p :: ps =>
    if p.active = true ∧ p.txbe = true then .poll p :: .writeTxb b :: sendTrace bs ps
    else .poll p :: sendTrace (b :: bs) ps

/-- The port accesses of READBYTES's loop (R69): each poll, and after a poll that shows a byte the unload of it. -/
def receiveTrace : List Byte → List Snapshot → List PortAccess
  | _, [] => []
  | [], p :: ps => .poll p :: receiveTrace [] ps
  | b :: bs, p :: ps =>
    if p.active = true ∧ p.rxbf = true then .poll p :: .readRxb b :: receiveTrace bs ps
    else .poll p :: receiveTrace (b :: bs) ps

/-- What one port access leaves in the port's registers as the model holds them (R22 to R30; log 14). -/
def PortRegs.afterAccess (r : PortRegs) : PortAccess → PortRegs
  | .writeAddr v => { r with addr := v }
  | .writeCnt v => { r with cnt := v }
  | .writeTxb v => { r with txb := v }
  | .writeRsen => { r with rsen := true }
  | .start => { r with start := true }
  | .poll st => { r with status := st }
  | .readRxb b => { r with rxb := b }
  | .readCnt c => { r with cnt := c }
  | .clearStop => { r with stopf := false }

/-- The lines that store a received byte in memory (R69 L5, R70 L11, R71 D3). -/
def storingLines : List SeqPos :=
  [.readbytes .L5, .readbytes (.drain .D3), .regwrrd .L11, .regwrrd (.drain .D3)]

/-- The payload bytes a send reads (R67): `n` bytes from `ptr`. -/
def payloadBytes (m : Memory) (ptr n : Nat) : List Byte := (List.range n).map fun j => m.read (ptr + j)

/-- The lines of a command before it leaves its polling loop (R66 to R70). -/
def SeqPos.inLoop : SeqPos → Bool
  | .sendbyte .L1 => true
  | .sendbyte .L2 => true
  | .sendbyte .L3 => true
  | .sendbyte .L4 => true
  | .sendbyte .L5 => true
  | .sendbytes .L1 => true
  | .sendbytes .L2 => true
  | .sendbytes .L3 => true
  | .sendbytes .L4 => true
  | .sendbytes .L5 => true
  | .sendbytes .L6 => true
  | .readbyte .L1 => true
  | .readbyte .L2 => true
  | .readbyte .L3 => true
  | .readbyte .L4 => true
  | .readbyte .L5 => true
  | .readbytes .L1 => true
  | .readbytes .L2 => true
  | .readbytes .L3 => true
  | .readbytes .L4 => true
  | .readbytes .L5 => true
  | .regwrrd .L12 => false
  | .regwrrd .L13 => false
  | .regwrrd .L14 => false
  | .regwrrd (.drain _) => false
  | .regwrrd _ => true
  | _ => false

/-! ### The formats' fields (R50) -/

end Sys2Proof.Machine

namespace Sys2Proof

/-- The formats that use A7 (R50). -/
def Format.usesA7 : Format → Bool
  | .AD => true | .A => true | .APN => true | .ADPN => true
  | .CB => false | .CH => false | .D => false | .Z => false

/-- The formats that use D8 (R50). -/
def Format.usesD8 : Format → Bool
  | .CH => true | .AD => true | .ADPN => true | .D => true
  | .CB => false | .A => false | .APN => false | .Z => false

/-- The formats that use PTR and N (R50). -/
def Format.usesPtrN : Format → Bool
  | .CB => true | .APN => true | .ADPN => true
  | .CH => false | .AD => false | .A => false | .D => false | .Z => false

/-- A word of format `f` has a non-zero reserved or unused field (R51). -/
def dirtyFields (f : Format) (cw : CmdWord) : Prop :=
  cw.extractLsb' 55 1 ≠ 0#1 ∨ cw.extractLsb' 0 8 ≠ 0#8 ∨
    (f.usesA7 = false ∧ fieldA7 cw ≠ 0#7) ∨ (f.usesD8 = false ∧ fieldD8 cw ≠ 0#8) ∨
    (f.usesPtrN = false ∧ (fieldPtr cw ≠ 0#16 ∨ fieldN cw ≠ 0#16))

/-- The opcode map's codes and formats, as R52 lists them. -/
def admittedOpcodes : List (BitVec 8 × Format) := [
  (0x01#8, .CB), (0x02#8, .CB), (0x03#8, .CH), (0x04#8, .CH), (0x05#8, .CH),
  (0x10#8, .AD), (0x11#8, .APN), (0x12#8, .A), (0x13#8, .APN), (0x14#8, .ADPN),
  (0x20#8, .D), (0x21#8, .Z), (0x22#8, .Z), (0x30#8, .D), (0x31#8, .Z), (0x32#8, .Z)]

/-- The class of an instruction, `OPC[7:4]` (R50, R52). -/
def Instr.cls : Instr → Nat
  | .setwbuf _ _ => 0
  | .setrbuf _ _ => 0
  | .regw _ _ => 0
  | .regr _ _ => 0
  | .regs _ _ => 0
  | .sendbyte _ _ => 1
  | .sendbytes _ _ _ => 1
  | .readbyte _ => 1
  | .readbytes _ _ _ => 1
  | .regwrrd _ _ _ _ => 1
  | .evWritten _ => 2
  | .evRequested => 2
  | .evStopped => 2
  | .vrfStore _ => 3
  | .vrfRequest => 3
  | .vrfStop => 3

end Sys2Proof
end

