-- ==== Sys2Proof/Certificates/Slice0/Obligations.lean ====
section
/-! DEFINITION. The statements about the model, each a formal reading of rules of spec/. Proofs are another's work. -/

section

open Sys2Proof Sys2Proof.Machine

/-! ### Encoding (30_encoding.md) -/

/-- Decoding an instruction's command word gives the instruction back, with every operand. -/
def Obligations.DecodeOfEncode : Prop :=
  ∀ i : Instr, i.wellFormed = true → decode (encode i) = .ok i

/-- R51: each operation with given operands has exactly one encoding: a word that decodes is the word of what it
decodes to, and that is well formed. -/
def Obligations.OneEncodingPerInstruction : Prop :=
  ∀ (cw : CmdWord) (i : Instr), decode cw = .ok i → i.wellFormed = true ∧ encode i = cw

/-- R51, R53, R54: every word's decoding, by its fields alone: the refusals in their order, and otherwise an
instruction. The fields a format uses are R50's, not the masks of the table. -/
def Obligations.DecodingByFields : Prop :=
  ∀ cw : CmdWord,
    ((∀ f, (fieldOpc cw, f) ∉ admittedOpcodes) → decode cw = .error .reservedOpcode) ∧
    ∀ f, (fieldOpc cw, f) ∈ admittedOpcodes →
      (dirtyFields f cw → decode cw = .error .reservedField) ∧
      (¬ dirtyFields f cw →
        (f = .CH → (fieldHsel cw = 0b00#2 ∨ fieldHsel cw = 0b11#2) → decode cw = .error .reservedHandlerSelect) ∧
        (f = .CH → fieldHsel cw = 0b01#2 → fieldHid cw ≠ 0#6 → decode cw = .error .reservedField) ∧
        ((f = .CH → (fieldHsel cw = 0b01#2 ∧ fieldHid cw = 0#6) ∨ fieldHsel cw = 0b10#2) →
          ∃ i, decode cw = .ok i))

/-- Words written out from R50 and R58 decode to what they stand for (95_test_vectors.md). -/
def Obligations.WrittenOutWordsDecode : Prop :=
  decode 0x1150000200000300#64 = .ok (.sendbytes 0x50#7 0x0200#16 3#16) ∧
  decode 0x1450100400000400#64 = .ok (.regwrrd 0x50#7 0x10#8 0x0400#16 4#16) ∧
  decode 0x0400830000000000#64 = .ok (.regr .custom 3#6) ∧
  decode 0x0100000100001000#64 = .ok (.setwbuf 0x0100#16 16#16) ∧
  decode 0x3000050000000000#64 = .ok (.vrfStore 0x05#8) ∧
  decode 0x2200000000000000#64 = .ok .evStopped

/-- R55: the address byte has a7 in bits 7:1 and the direction in bit 0; flipping the read bit of the write address
byte gives the read address byte; and R55's four examples. (Log 15: R55 marks the layout as general knowledge.) -/
def Obligations.AddressByteLayout : Prop :=
  (∀ (a7 : BusAddr) (rw : Bool),
    (addrbyte a7 rw).extractLsb' 1 7 = a7 ∧ (addrbyte a7 rw).getLsbD 0 = rw ∧
      addrbyte a7 false ^^^ 1#8 = addrbyte a7 true) ∧
  addrbyte 0x50#7 false = 0xA0#8 ∧ addrbyte 0x50#7 true = 0xA1#8 ∧ addrbyte 0x7F#7 true = 0xFF#8 ∧
    addrbyte 0x00#7 false = 0x00#8

/-! ### Steps and agents (00_scope.md, 20_memory.md, 60_exceptions.md) -/

/-- A step whose move is a command word, issued by a caller or delivered by the port, runs the decoded instruction
on the state with that input used up; a word that spells no operation is refused by decode's code. -/
def Obligations.StepRunsTheDecodedInstruction : Prop :=
  ∀ (s t : State) (cw : CmdWord),
    nextMove s = some (.act (.issue cw), t) ∨ nextMove s = some (.port (.deliver cw), t) →
      (∀ i, decode cw = .ok i → step s = exec i t) ∧ (∀ e, decode cw = .error e → step s = .refused (refusalOf e))

/-- A running instance's next step runs the instruction whose word is put in front of it, in any state and with
nothing else changed. -/
def Obligations.NextStepRunsThePlacedWord : Prop :=
  ∀ (s : State) (i : Instr), s.outcome = .none → i.wellFormed = true →
    step (s.withFetchWord 64 (encode i).toNat) = exec i s

/-- R20, R4: while a command runs undisturbed, a step is the line `eng.seq` names, whatever the blocked foreground
still wants. -/
def Obligations.StepRunsTheEngineLine : Prop :=
  ∀ s : State, Undisturbed s → s.eng.busy = true → s.eng.seq ≠ .idle → step s = Sys2Proof.Machine.ofExcept (engineLine s)

/-- R4: a foreground that waits for its command stays blocked: while a command runs, no step uses up one of its
actions. That a command of another caller blocks it too is the model's choice (log 28), and so is that a device reset,
which ends the command, leaves the actions still to come (log 8). -/
def Obligations.ForegroundIsBlockedByItsCommand : Prop :=
  ∀ (s t : State), s.eng.busy = true → step s = .next t → t.env.fg = s.env.fg

/-- R47: while delivery is masked no event is delivered: an event that is next in line stays next in line, and what
the VRF and the slots hold changes only by words that callers issue and by a device reset. That all that stands behind
the event waits with it, the port's own register changes included, is the model's choice (log 20), not R47's; and so is
that a device reset leaves the event in line (log 8). -/
def Obligations.MaskedPortDeliversNoEvent : Prop :=
  ∀ (s t : State) (cw : CmdWord) (rest : List PortAction), s.env.masked = true →
    s.env.port = .deliver cw :: rest → step s = .next t → t.env.port = s.env.port ∧
      ((∀ m u, nextMove s = some (m, u) → (∀ w, m ≠ .act (.issue w)) ∧ m ≠ .reset) →
        t.vrf = s.vrf ∧ t.slots = s.slots)

/-- R124: an idle instance with no input takes no step: its state stays. (Log 10: a step that changes nothing.) -/
def Obligations.IdleStays : Prop :=
  ∀ s : State, s.outcome = .none → s.eng.seq = .idle → s.env.fg = [] → s.env.port = [] → s.env.other = [] →
    s.env.resets = 0 → step s = .next s

/-- R111, R112: a faulted or refused step changes only `outcome`: what `advance` leaves is the state with the step's
input used up, `outcome` set; and using the input up touches the pending inputs and turns only, not the mask, the
port's scripted answers or the draws. -/
def Obligations.StoppedStepChangesOnlyOutcome : Prop :=
  ∀ s : State, s.outcome = .none →
    (∀ f, step s = .fault f → ∃ m t, nextMove s = some (m, t) ∧ advance s = { t with outcome := .fault f }) ∧
    (∀ r, step s = .refused r → ∃ m t, nextMove s = some (m, t) ∧ advance s = { t with outcome := .refused r }) ∧
    (∀ m t, nextMove s = some (m, t) →
      t = { s with env := { s.env with
        fg := t.env.fg, port := t.env.port, other := t.env.other, resets := t.env.resets, turns := t.env.turns } })

/-- R113: the record is sticky: it keeps its first value, and only a device reset sets it to NONE. Until then no
agent takes a step, so nothing changes. That `step` answers the record again is the host's form of a step in which no
agent moves (log 9, DEDUCED), not R113's words. -/
def Obligations.OutcomeIsSticky : Prop :=
  ∀ s : State,
    (∀ f, s.outcome = .fault f → s.env.resets = 0 → advance s = s ∧ step s = .fault f) ∧
    (∀ r, s.outcome = .refused r → s.env.resets = 0 → advance s = s ∧ step s = .refused r) ∧
    (∀ t, s.outcome ≠ .none → step s = .next t → 0 < s.env.resets ∧ t.outcome = .none)

/-- R135: the end of a run is final: where a run ends well and no reset is to come, a further step ends well again, and
what is observed stays, memory apart, which a caller's store alone changes. (Where nothing at all is to come, log 10's
step that changes nothing.) -/
def Obligations.EndOfRunIsQuiescent : Prop :=
  ∀ s t : State, EndsWell s → s.env.resets = 0 → step s = .next t →
    EndsWell t ∧ t.observed = { s.observed with mem := t.mem } ∧ t.vrf = s.vrf ∧ t.slots = s.slots ∧ t.eng = s.eng ∧
      ((∀ a v u, nextMove s ≠ some (.act (.store a v), u)) → t.mem = s.mem)

/-- R46, R47, R22: the steps that run no word and no line, with their whole next state. A foreground read of one VRF
field or one byte is one step that sees the value of that moment and changes nothing of the block or of memory; opening
or closing a critical section changes nothing but the mask; a change that the port makes to its own registers changes
nothing but them (CNT holds CNT_W bits of what the port gives it: log 24). A store is StoredByteIsRead's. -/
def Obligations.StepsWithoutAWord : Prop :=
  ∀ (s t : State),
    (nextMove s = some (.act (.readVrf .cursor), t) →
      step s = .next { t with hist := { t.hist with reads := s.hist.reads ++ [.cursor s.vrf.cursor] } }) ∧
    (nextMove s = some (.act (.readVrf .isAddressByte), t) →
      step s = .next { t with hist := { t.hist with reads := s.hist.reads ++ [.isAddressByte s.vrf.isAddressByte] } }) ∧
    (nextMove s = some (.act (.readVrf .hadRead), t) →
      step s = .next { t with hist := { t.hist with reads := s.hist.reads ++ [.hadRead s.vrf.hadRead] } }) ∧
    (nextMove s = some (.act .mask, t) → step s = .next { t with env := { t.env with masked := true } }) ∧
    (nextMove s = some (.act .unmask, t) → step s = .next { t with env := { t.env with masked := false } }) ∧
    (∀ regs, nextMove s = some (.port (.drive regs), t) →
      ∃ c, step s = .next { t with port := { regs with cnt := c } } ∧
        (regs.cnt.toNat < 2 ^ s.par.cntW → c = regs.cnt)) ∧
    (∀ a : Half, a.toNat < 2 ^ s.par.addrW → nextMove s = some (.act (.load a), t) →
      step s = .next { t with hist := { t.hist with reads := s.hist.reads ++ [.byte a (s.mem.read a.toNat)] } })

/-- R36: a byte stored by the foreground or by another instance is what the next read of its address sees, and
every other byte reads as before; the store's step changes nothing but memory. -/
def Obligations.StoredByteIsRead : Prop :=
  ∀ (s : State) (a : Half) (v : Byte), s.mem.wf = true → a.toNat < 2 ^ s.par.addrW →
    ∃ t, runAction (.store a v) s = .next t ∧ (∀ r, nextMove r = some (.act (.store a v), s) → step r = .next t) ∧
      t = { s with mem := t.mem } ∧ t.mem.wf = true ∧ t.mem.read a.toNat = v ∧
      (∀ b, b ≠ a.toNat → t.mem.read b = s.mem.read b) ∧
      ∃ u, runAction (.load a) t = .next u ∧ u.hist.reads = s.hist.reads ++ [.byte a v]

/-- R122, R36: the instances share memory and nothing else. The instance that moves runs its own step on the shared
memory, the shared memory after it is that step's, every other instance stays as it is; and so a byte that one instance
stores is what another reads next. (Log 19, log 31: how the instances are composed, and their index, are the model's
choice.) -/
def Obligations.InstancesShareOnlyMemory : Prop :=
  ∀ (k : Nat) (y : System) (s : State), y.insts[k]? = some s →
    (sysStep k y).insts[k]? = some (advance { s with mem := y.mem, env := { s.env with inst := k } }) ∧
    (sysStep k y).mem = (advance { s with mem := y.mem, env := { s.env with inst := k } }).mem ∧
    (∀ j, j ≠ k → (sysStep k y).insts[j]? = y.insts[j]?) ∧
    (∀ (j : Nat) (u s' u' : State) (a : Half) (v : Byte), j ≠ k → y.insts[j]? = some u → y.mem.wf = true →
      a.toNat < 2 ^ s.par.addrW → a.toNat < 2 ^ u.par.addrW →
      nextMove s = some (.act (.store a v), s') → nextMove u = some (.act (.load a), u') →
      ∃ w, (sysStep j (sysStep k y)).insts[j]? = some w ∧ w.hist.reads = u.hist.reads ++ [.byte a v])

/-- R5, R31: no step changes a parameter of the run. -/
def Obligations.NoStepChangesTheParameters : Prop :=
  ∀ s t : State, step s = .next t → t.par = s.par

/-! ### Reset (70_reset_and_hazards.md) -/

/-- R123: what reset leaves, for every choice of the parameters: the values the rule gives. -/
def Obligations.ResetLeaves : Prop :=
  ∀ p : Params,
    let s := State.resetWith p
    s.vrf.cursor = 0 ∧ s.vrf.isAddressByte = true ∧ s.vrf.hadRead = false ∧ s.vrf.dir = .none ∧
    s.vrf.wbound = false ∧ s.vrf.rbound = false ∧ s.slots = ⟨.empty, .empty, .empty⟩ ∧
    s.eng.busy = false ∧ s.eng.seq = .idle ∧ s.outcome = .none ∧ s.mem = p.mem0 ∧ s.par = p

/-- R123: a device reset at any point, a command in progress or a recorded fault included, gives every piece of the
instance's state its reset value again and returns no result. (Log 8: which inputs and records it keeps.) -/
def Obligations.DeviceResetAbandons : Prop :=
  ∀ (s : State), 0 < s.env.resets → s.env.turns.head? = some .device →
    ∃ t, step s = .next t ∧ t.vrf = (State.resetWith s.par).vrf ∧ t.slots = ⟨.empty, .empty, .empty⟩ ∧
      t.eng.busy = false ∧ t.eng.seq = .idle ∧ t.outcome = .none ∧ t.mem = s.par.mem0 ∧ t.par = s.par ∧
      t.hist.results = s.hist.results

/-- R125, R133: right after reset in the target role every event faults NoHandler, and in either role a direct VRF
operation that needs a buffer faults BufferUnbound; a stop needs none. -/
def Obligations.UnconfiguredEventsFault : Prop :=
  ∀ (p : Params) (d : Byte),
    (p.role = .target →
      exec (.evWritten d) (State.resetWith p) = .fault (.noHandler .written) ∧
      exec .evRequested (State.resetWith p) = .fault (.noHandler .requested) ∧
      exec .evStopped (State.resetWith p) = .fault (.noHandler .stopped)) ∧
    exec (.vrfStore d) (State.resetWith p) = .fault (.bufferUnbound .write) ∧
    exec .vrfRequest (State.resetWith p) = .fault (.bufferUnbound .read) ∧
    ∃ t, exec .vrfStop (State.resetWith p) = .next t ∧ t.vrf.cursor = 0 ∧ t.vrf.isAddressByte = true

/-! ### Buffer bindings (41_virtual_register_file.md R83, R84) -/

/-- R83: SETWBUF binds the write buffer and changes nothing else, in either role; a range past memory is refused,
and so is a PTR that is no data-memory address: R57 says so, R83's pseudocode does not test it, and following both is
the model's reading (log 12, DEDUCED). -/
def Obligations.SetwbufBinds : Prop :=
  ∀ (s : State) (ptr n : Half),
    (ptr.toNat < 2 ^ s.par.addrW → ptr.toNat + n.toNat ≤ 2 ^ s.par.addrW →
      exec (.setwbuf ptr n) s =
        .next { s with vrf := { s.vrf with wbase := ptr, wsize := n.toNat, wbound := true } }) ∧
    (2 ^ s.par.addrW < ptr.toNat + n.toNat → exec (.setwbuf ptr n) s = .refused .bufferOutOfRange) ∧
    (2 ^ s.par.addrW ≤ ptr.toNat → exec (.setwbuf ptr n) s = .refused .bufferOutOfRange)

/-- R84: SETRBUF binds the read buffer and changes nothing else, in either role; a range past memory is refused,
and so is a PTR that is no data-memory address: R57 says so, R84's pseudocode does not test it, and following both is
the model's reading (log 12, DEDUCED). -/
def Obligations.SetrbufBinds : Prop :=
  ∀ (s : State) (ptr n : Half),
    (ptr.toNat < 2 ^ s.par.addrW → ptr.toNat + n.toNat ≤ 2 ^ s.par.addrW →
      exec (.setrbuf ptr n) s =
        .next { s with vrf := { s.vrf with rbase := ptr, rsize := n.toNat, rbound := true } }) ∧
    (2 ^ s.par.addrW < ptr.toNat + n.toNat → exec (.setrbuf ptr n) s = .refused .bufferOutOfRange) ∧
    (2 ^ s.par.addrW ≤ ptr.toNat → exec (.setrbuf ptr n) s = .refused .bufferOutOfRange)

/-- R59: the two expansions, in order; so SETBUF binds one region for both buffers, and REGVRF puts the VRF in all
three slots. -/
def Obligations.PseudoInstructionsExpand : Prop :=
  ∀ (s : State) (ptr n : Half),
    (Pseudo.setbuf ptr n).expand = [.setwbuf ptr n, .setrbuf ptr n] ∧
    Pseudo.regvrf.expand = [.regw .vrf 0#6, .regr .vrf 0#6, .regs .vrf 0#6] ∧
    (ptr.toNat < 2 ^ s.par.addrW → ptr.toNat + n.toNat ≤ 2 ^ s.par.addrW →
      execAll (Pseudo.setbuf ptr n).expand s =
        .next { s with vrf := { s.vrf with
          wbase := ptr, wsize := n.toNat, wbound := true, rbase := ptr, rsize := n.toNat, rbound := true } }) ∧
    execAll Pseudo.regvrf.expand s = .next { s with slots := ⟨.vrf, .vrf, .vrf⟩ }

/-! ### The VRF's operations (41_virtual_register_file.md R85 to R95) -/

/-- R85 with a frame: VRF_STORE in each of its cases. The address byte sets the cursor and is not stored; a data byte
below capacity is stored at `wbase + cursor` and the cursor moves on; past capacity it is discarded; each case says what
all the rest of the state is. -/
def Obligations.VrfStoreCases : Prop :=
  ∀ (s : State) (d : Byte),
    (s.vrf.wbound = false → exec (.vrfStore d) s = .fault (.bufferUnbound .write)) ∧
    (s.vrf.wbound = true → s.vrf.dir = .read → exec (.vrfStore d) s = .fault .mixedDirection) ∧
    (s.vrf.wbound = true → s.vrf.dir ≠ .read →
      (s.par.mode = .addressPrefixed → s.vrf.isAddressByte = true →
        exec (.vrfStore d) s =
          .next { s with vrf := { s.vrf with cursor := d.toNat, isAddressByte := false, dir := .write } }) ∧
      ((s.par.mode = .flatStream ∨ s.vrf.isAddressByte = false) →
        (s.vrf.cursor < s.vrf.wsize → s.vrf.wbase.toNat + s.vrf.wsize ≤ 2 ^ s.par.addrW →
          exec (.vrfStore d) s =
            .next { s with vrf := { s.vrf with cursor := s.vrf.cursor + 1, dir := .write },
                           mem := s.mem.write (s.vrf.wbase.toNat + s.vrf.cursor) d }) ∧
        (s.vrf.wsize ≤ s.vrf.cursor →
          exec (.vrfStore d) s = .next { s with vrf := { s.vrf with dir := .write } })))

/-- R86 with a frame: VRF_REQUEST returns the byte at `rbase + cursor` and moves on, or past the buffer returns the
sentinel 0x00 and parks the cursor at `rsize + 1`, in both modes. -/
def Obligations.VrfRequestCases : Prop :=
  ∀ s : State,
    (s.vrf.rbound = false → exec .vrfRequest s = .fault (.bufferUnbound .read)) ∧
    (s.vrf.rbound = true →
      (s.vrf.cursor < s.vrf.rsize → s.vrf.rbase.toNat + s.vrf.rsize ≤ 2 ^ s.par.addrW →
        exec .vrfRequest s =
          .next { s with vrf := { s.vrf with cursor := s.vrf.cursor + 1, hadRead := true, dir := .read },
                         hist := { s.hist with results := s.hist.results ++
                           [.vrfByte (s.mem.read (s.vrf.rbase.toNat + s.vrf.cursor))] } }) ∧
      (s.vrf.rsize ≤ s.vrf.cursor →
        exec .vrfRequest s =
          .next { s with vrf := { s.vrf with cursor := s.vrf.rsize + 1, hadRead := true, dir := .read },
                         hist := { s.hist with results := s.hist.results ++ [.vrfByte 0x00#8] } }))

/-- R87 with a frame: VRF_STOP undoes the pre-load in address-prefixed mode if a byte was requested, sets the cursor
to 0 in flat-stream mode, resets the flags, and changes nothing else. -/
def Obligations.VrfStopCases : Prop :=
  ∀ s : State, ∃ c,
    exec .vrfStop s =
      .next { s with vrf := { s.vrf with cursor := c, isAddressByte := true, hadRead := false, dir := .none } } ∧
    (s.par.mode = .flatStream → c = 0) ∧
    (s.par.mode = .addressPrefixed →
      (s.vrf.hadRead = true → s.vrf.cursor ≠ 0 → c + 1 = s.vrf.cursor) ∧
      ((s.vrf.hadRead = false ∨ s.vrf.cursor = 0) → c = s.vrf.cursor))

/-- R89, the write law: a whole write transaction of a pointer and any number of data bytes, with its stop. Bytes up to
the capacity land at `wbase + A + i`, the rest are dropped, every other byte of memory stays, and the cursor ends at
`min(A + L, N)`, or stays at A if A is at or past the capacity. -/
def Obligations.WriteTransactionLaw : Prop :=
  ∀ (s : State) (A : Byte) (data : List Byte),
    s.par.mode = .addressPrefixed → s.vrf.isAddressByte = true → s.vrf.dir = .none → s.vrf.hadRead = false →
    s.vrf.wbound = true → s.vrf.wbase.toNat + s.vrf.wsize ≤ 2 ^ s.par.addrW → s.mem.wf = true →
    ∃ t, execAll (.vrfStore A :: (data.map .vrfStore ++ [.vrfStop])) s = .next t ∧
      (∀ i d, data[i]? = some d → A.toNat + i < s.vrf.wsize →
        t.mem.read (s.vrf.wbase.toNat + A.toNat + i) = d) ∧
      (∀ a, (∀ i, i < data.length → A.toNat + i < s.vrf.wsize → a ≠ s.vrf.wbase.toNat + A.toNat + i) →
        t.mem.read a = s.mem.read a) ∧
      t.vrf.cursor = (if A.toNat < s.vrf.wsize then min (A.toNat + data.length) s.vrf.wsize else A.toNat) ∧
      t.vrf.isAddressByte = true ∧ t.vrf.hadRead = false ∧ t.vrf.dir = .none

/-- R90, the read law: K requests with no write between them, in either mode and from any cursor. -/
def Obligations.ReadLaw : Prop :=
  ∀ (s : State) (K : Nat), 1 ≤ K → s.vrf.rbound = true →
    s.vrf.rbase.toNat + s.vrf.rsize ≤ 2 ^ s.par.addrW →
    ∃ t, execAll (List.replicate K .vrfRequest) s = .next t ∧
      t.hist.results = s.hist.results ++ (List.range K).map (fun i =>
        .vrfByte (if s.vrf.cursor + i < s.vrf.rsize
          then s.mem.read (s.vrf.rbase.toNat + (s.vrf.cursor + i)) else 0x00#8)) ∧
      t.vrf.cursor = (if s.vrf.cursor + K ≤ s.vrf.rsize then s.vrf.cursor + K else s.vrf.rsize + 1) ∧
      t.mem = s.mem

/-- R91, the stop-correction law, through dispatched events: a remote read of L bytes delivers one request more than it
clocks (R79), and after the stop the cursor is `min(P + L, rsize)`; the answers loaded into TXB are R90's. -/
def Obligations.StopCorrectionLaw : Prop :=
  ∀ (s : State) (L : Nat), 1 ≤ L → s.par.role = .target → s.par.mode = .addressPrefixed →
    s.slots.read = .vrf → s.slots.stop = .vrf → s.vrf.rbound = true →
    s.vrf.rbase.toNat + s.vrf.rsize ≤ 2 ^ s.par.addrW →
    ∃ t, execAll (List.replicate (L + Config.preloadExtra) .evRequested ++ [.evStopped]) s = .next t ∧
      t.vrf.cursor = min (s.vrf.cursor + L) s.vrf.rsize ∧
      t.hist.txLoads = s.hist.txLoads ++ (List.range (L + Config.preloadExtra)).map (fun i =>
        if s.vrf.cursor + i < s.vrf.rsize
          then s.mem.read (s.vrf.rbase.toNat + (s.vrf.cursor + i)) else 0x00#8) ∧
      t.hist.results = s.hist.results

/-- R92: no access outside the buffers. VRF_STORE leaves every byte outside `[wbase, wbase + wsize)`; what
VRF_REQUEST returns does not depend on any byte outside `[rbase, rbase + rsize)`. -/
def Obligations.NoAccessOutsideTheBuffers : Prop :=
  (∀ (s t : State) (d : Byte), s.mem.wf = true → exec (.vrfStore d) s = .next t →
    SameMemoryOutside s t s.vrf.wbase.toNat s.vrf.wsize) ∧
  (∀ (s : State) (m : Memory) (t u : State),
    (∀ a, s.vrf.rbase.toNat ≤ a → a < s.vrf.rbase.toNat + s.vrf.rsize → m.read a = s.mem.read a) →
    exec .vrfRequest s = .next t → exec .vrfRequest { s with mem := m } = .next u →
    u.hist = t.hist ∧ u.vrf = t.vrf ∧ SameMemory s t ∧ u.mem = m)

/-- R93: the guard `cursor != 0` is redundant: in every state of the invariant a stop after a request finds the cursor
at 1 or more, in either mode, and in address-prefixed mode it decrements the cursor exactly when a byte was requested.
(The invariant is its own statement.) -/
def Obligations.StopGuardIsRedundant : Prop :=
  ∀ s : State, Inv s →
    ∃ t, exec .vrfStop s = .next t ∧ (s.vrf.hadRead = true → 1 ≤ s.vrf.cursor) ∧
      (s.par.mode = .addressPrefixed →
        t.vrf.cursor + (if s.vrf.hadRead = true then 1 else 0) = s.vrf.cursor)

/-- R94, first invariant: within a transaction the cursor never falls, but for the first written byte and for a request
above the parked value. -/
def Obligations.CursorRisesWithinATransaction : Prop :=
  (∀ (s t : State) (d : Byte), (s.par.mode = .flatStream ∨ s.vrf.isAddressByte = false) →
    exec (.vrfStore d) s = .next t → s.vrf.cursor ≤ t.vrf.cursor) ∧
  (∀ s t : State, s.vrf.cursor ≤ s.vrf.rsize + 1 → exec .vrfRequest s = .next t → s.vrf.cursor ≤ t.vrf.cursor) ∧
  (∀ s t : State, s.vrf.rsize + 1 < s.vrf.cursor → exec .vrfRequest s = .next t → t.vrf.cursor = s.vrf.rsize + 1)

/-- R95: the cursor is at most `max(255, W, R + 1)`, where W and R are the largest capacities bound so far, 0 if none:
reset has it with both 0, every step keeps it. -/
def Obligations.CursorIsBounded : Prop :=
  (∀ p : Params, CursorBound 0 0 (State.resetWith p)) ∧
  (∀ (s t : State) (W R : Nat), CursorBound W R s → step s = .next t →
    CursorBound (max W t.vrf.writeCapacity) (max R t.vrf.readCapacity) t)

/-- R43: with overlapping bindings a byte written through one is read back through the other at its address, in
flat-stream mode and, past the address byte, in address-prefixed mode. -/
def Obligations.AliasedBuffersReadBack : Prop :=
  ∀ (s : State) (d : Byte) (k : Nat), s.mem.wf = true → s.vrf.wbound = true → s.vrf.rbound = true →
    s.vrf.dir ≠ .read → (s.par.mode = .flatStream ∨ s.vrf.isAddressByte = false) →
    s.vrf.cursor < s.vrf.wsize → k < s.vrf.rsize →
    s.vrf.wbase.toNat + s.vrf.wsize ≤ 2 ^ s.par.addrW → s.vrf.rbase.toNat + s.vrf.rsize ≤ 2 ^ s.par.addrW →
    s.vrf.rbase.toNat + k = s.vrf.wbase.toNat + s.vrf.cursor →
    ∃ t, exec (.vrfStore d) s = .next t ∧
      ∃ u, exec .vrfRequest { t with vrf := { t.vrf with cursor := k } } = .next u ∧
        u.hist.results = s.hist.results ++ [.vrfByte d]

/-- R12 to R18, R32: who writes what. Outside the VRF's operations nothing writes the cursor or a phase flag; only
SETWBUF and SETRBUF write their bindings; only REGW, REGR and REGS write their slots; only a controller command writes
the engine. -/
def Obligations.OnlyNamedOperationsWrite : Prop :=
  ∀ (i : Instr) (s t : State), exec i s = .next t →
    (i.cls ≤ 1 → t.vrf.cursor = s.vrf.cursor ∧ t.vrf.isAddressByte = s.vrf.isAddressByte ∧
      t.vrf.hadRead = s.vrf.hadRead ∧ t.vrf.dir = s.vrf.dir) ∧
    ((∀ p n, i ≠ .setwbuf p n) →
      t.vrf.wbase = s.vrf.wbase ∧ t.vrf.wsize = s.vrf.wsize ∧ t.vrf.wbound = s.vrf.wbound) ∧
    ((∀ p n, i ≠ .setrbuf p n) →
      t.vrf.rbase = s.vrf.rbase ∧ t.vrf.rsize = s.vrf.rsize ∧ t.vrf.rbound = s.vrf.rbound) ∧
    ((∀ h k, i ≠ .regw h k) → t.slots.write = s.slots.write) ∧
    ((∀ h k, i ≠ .regr h k) → t.slots.read = s.slots.read) ∧
    ((∀ h k, i ≠ .regs h k) → t.slots.stop = s.slots.stop) ∧
    (i.cls ≠ 1 → t.eng = s.eng) ∧ t.outcome = s.outcome ∧ t.par = s.par ∧
    ((∀ d, i ≠ .vrfStore d ∧ i ≠ .evWritten d) → SameMemory s t) ∧
    (i.cls ≠ 2 → t.port = s.port ∧ t.hist.trace = s.hist.trace)

/-! ### Event dispatch (42_event_dispatch.md) -/

/-- R96: REGW puts the handler its selector names into the write slot, in either role and whatever it held, and changes
nothing else. -/
def Obligations.RegwRegisters : Prop :=
  ∀ (s : State) (hid : BitVec 6),
    exec (.regw .vrf 0#6) s = .next { s with slots := { s.slots with write := .vrf } } ∧
    exec (.regw .custom hid) s = .next { s with slots := { s.slots with write := .custom hid } }

/-- R97, R98: the same for REGR and the read slot, REGS and the stop slot. -/
def Obligations.RegrAndRegsRegister : Prop :=
  ∀ (s : State) (hid : BitVec 6),
    exec (.regr .vrf 0#6) s = .next { s with slots := { s.slots with read := .vrf } } ∧
    exec (.regr .custom hid) s = .next { s with slots := { s.slots with read := .custom hid } } ∧
    exec (.regs .vrf 0#6) s = .next { s with slots := { s.slots with stop := .vrf } } ∧
    exec (.regs .custom hid) s = .next { s with slots := { s.slots with stop := .custom hid } }

/-- R99: with the VRF in the slot, EV_WRITTEN is VRF_STORE and what it completes with differs only in the record of
the last event; an empty slot faults; a custom handler changes no state of the block and no memory, which R102 takes
as a premise and the model as its choice (log 13). -/
def Obligations.EvWrittenDispatches : Prop :=
  ∀ (s : State) (d : Byte),
    (s.par.role = .controller → exec (.evWritten d) s = .refused .roleMismatch) ∧
    (s.par.role = .target →
      (s.slots.write = .empty → exec (.evWritten d) s = .fault (.noHandler .written)) ∧
      (s.slots.write = .vrf →
        (s.vrf.wbound = true → s.vrf.dir ≠ .read → s.vrf.wbase.toNat + s.vrf.wsize ≤ 2 ^ s.par.addrW →
          ∃ t, exec (.vrfStore d) s = .next t ∧
            exec (.evWritten d) s = .next { t with hist := { t.hist with lastEvent := some .written } }) ∧
        (∀ f, exec (.vrfStore d) s = .fault f → exec (.evWritten d) s = .fault f)) ∧
      (∀ h, s.slots.write = .custom h →
        exec (.evWritten d) s = .next { s with hist := { s.hist with lastEvent := some .written } }))

/-- R100: EV_REQUESTED loads the answer into TXB: the VRF's byte or the sentinel, or any byte from a custom handler.
That a custom handler changes no state of the block and no memory is R102's premise and the model's choice (log 13). -/
def Obligations.EvRequestedAnswers : Prop :=
  ∀ s : State,
    (s.par.role = .controller → exec .evRequested s = .refused .roleMismatch) ∧
    (s.par.role = .target →
      (s.slots.read = .empty → exec .evRequested s = .fault (.noHandler .requested)) ∧
      (s.slots.read = .vrf → s.vrf.rbound = false → exec .evRequested s = .fault (.bufferUnbound .read)) ∧
      (s.slots.read = .vrf → s.vrf.rbound = true → s.vrf.rbase.toNat + s.vrf.rsize ≤ 2 ^ s.par.addrW →
        ∃ t v, exec .evRequested s = .next t ∧
          v = (if s.vrf.cursor < s.vrf.rsize then s.mem.read (s.vrf.rbase.toNat + s.vrf.cursor) else 0x00#8) ∧
          t.port = { s.port with txb := v } ∧ t.hist.txLoads = s.hist.txLoads ++ [v] ∧
          t.vrf = { s.vrf with
            cursor := if s.vrf.cursor < s.vrf.rsize then s.vrf.cursor + 1 else s.vrf.rsize + 1,
            hadRead := true, dir := .read } ∧
          SameMemory s t ∧ t.slots = s.slots ∧ t.eng = s.eng ∧ t.outcome = s.outcome) ∧
      (∀ h, s.slots.read = .custom h →
        ∃ t v, exec .evRequested s = .next t ∧ t.port = { s.port with txb := v } ∧
          t.hist.txLoads = s.hist.txLoads ++ [v] ∧ t.vrf = s.vrf ∧ t.slots = s.slots ∧ t.eng = s.eng ∧
          SameMemory s t ∧ t.outcome = s.outcome))

/-- R101: EV_STOPPED runs the stop handler and clears STOPF; on an empty slot it faults before the clear. That a custom
handler changes no state of the block and no memory is R102's premise and the model's choice (log 13). -/
def Obligations.EvStoppedDispatches : Prop :=
  ∀ s : State,
    (s.par.role = .controller → exec .evStopped s = .refused .roleMismatch) ∧
    (s.par.role = .target →
      (s.slots.stop = .empty → exec .evStopped s = .fault (.noHandler .stopped)) ∧
      (s.slots.stop = .vrf →
        ∃ t u, exec .vrfStop s = .next u ∧ exec .evStopped s = .next t ∧ t.vrf = u.vrf ∧
          t.port = { s.port with stopf := false } ∧ SameMemory s t ∧ t.slots = s.slots ∧ t.eng = s.eng) ∧
      (∀ h, s.slots.stop = .custom h →
        ∃ t, exec .evStopped s = .next t ∧ t.vrf = s.vrf ∧ t.port = { s.port with stopf := false } ∧
          SameMemory s t ∧ t.slots = s.slots ∧ t.eng = s.eng))

/-- R105: event words only in the target role, controller commands only in the controller role, and what a
configuration or direct VRF word does does not depend on the role. -/
def Obligations.RoleGating : Prop :=
  (∀ (i : Instr) (s : State), i.cls = 2 → s.par.role ≠ .target → exec i s = .refused .roleMismatch) ∧
  (∀ (i : Instr) (s : State), i.cls = 1 → s.par.role ≠ .controller → exec i s = .refused .roleMismatch) ∧
  (∀ (i : Instr) (s : State), i.cls = 0 ∨ i.cls = 3 → exec i s ≠ .refused .roleMismatch) ∧
  (∀ (i : Instr) (s t : State) (r : Role), i.cls = 0 ∨ i.cls = 3 → exec i s = .next t →
    exec i { s with par := { s.par with role := r } } = .next { t with par := { t.par with role := r } })

/-- R49, R96 to R98, R131: a slot's new handler is seen by the next event, and a new binding by the next store or request,
also between two events of one transaction. A slot given a custom handler: the VRF no longer gets the event. A slot
given the VRF: the event does to the VRF and to memory what the VRF's operation does. A new buffer: it is indexed with
the cursor the old one left, where that is below its size. That a custom handler itself leaves the VRF and memory alone is R102's premise and the
model's choice (log 13). -/
def Obligations.ReconfigurationIsSeenByTheNextEvent : Prop :=
  ∀ (s : State) (d : Byte),
    (s.par.role = .target →
      (∀ hid,
        (∃ t, execAll [.regw .custom hid, .evWritten d] s = .next t ∧ t.vrf = s.vrf ∧ SameMemory s t ∧
          t.slots = { s.slots with write := .custom hid }) ∧
        (∃ t, execAll [.regr .custom hid, .evRequested] s = .next t ∧ t.vrf = s.vrf ∧ SameMemory s t ∧
          t.slots = { s.slots with read := .custom hid }) ∧
        (∃ t, execAll [.regs .custom hid, .evStopped] s = .next t ∧ t.vrf = s.vrf ∧ SameMemory s t ∧
          t.slots = { s.slots with stop := .custom hid })) ∧
      (∀ u, exec (.vrfStore d) s = .next u →
        ∃ t, execAll [.regw .vrf 0#6, .evWritten d] s = .next t ∧ t.vrf = u.vrf ∧ t.mem = u.mem ∧
          t.slots = { s.slots with write := .vrf }) ∧
      (∀ u, exec .vrfRequest s = .next u →
        ∃ t v, execAll [.regr .vrf 0#6, .evRequested] s = .next t ∧ t.vrf = u.vrf ∧ t.mem = u.mem ∧
          t.slots = { s.slots with read := .vrf } ∧ u.hist.results = s.hist.results ++ [.vrfByte v] ∧
          t.hist.txLoads = s.hist.txLoads ++ [v]) ∧
      (∀ u, exec .vrfStop s = .next u →
        ∃ t, execAll [.regs .vrf 0#6, .evStopped] s = .next t ∧ t.vrf = u.vrf ∧ t.mem = u.mem ∧
          t.slots = { s.slots with stop := .vrf })) ∧
    (∀ ptr n : Half, ptr.toNat + n.toNat ≤ 2 ^ s.par.addrW → s.vrf.cursor < n.toNat →
      (s.vrf.dir ≠ .read → (s.par.mode = .flatStream ∨ s.vrf.isAddressByte = false) →
        ∃ t, execAll [.setwbuf ptr n, .vrfStore d] s = .next t ∧ t.vrf.cursor = s.vrf.cursor + 1 ∧
          t.mem = s.mem.write (ptr.toNat + s.vrf.cursor) d) ∧
      (∃ t, execAll [.setrbuf ptr n, .vrfRequest] s = .next t ∧ t.vrf.cursor = s.vrf.cursor + 1 ∧ SameMemory s t ∧
        t.hist.results = s.hist.results ++ [.vrfByte (s.mem.read (ptr.toNat + s.vrf.cursor))]))

/-! ### The engine (40_controller_engine.md) -/

/-- R62: an admitted controller command completes its entry: busy, its operands in the working registers, length 1
where the format has none, index 0, phase A, at its first line; nothing else changes. -/
def Obligations.AdmittedCommandsEnter : Prop :=
  ∀ (s : State) (a7 : BusAddr) (d8 : Byte) (ptr n : Half),
    (Admitted s .sendbyte 0#16 0#16 → exec (.sendbyte a7 d8) s = .next { s with eng :=
      ⟨true, .sendbyte .L1, { s.eng.work with
        op := .sendbyte, a7 := a7, d8 := d8, ptr := 0#16, n := 1#16, i := 0, phase := .A }⟩ }) ∧
    (Admitted s .sendbytes ptr n → exec (.sendbytes a7 ptr n) s = .next { s with eng :=
      ⟨true, .sendbytes .L1, { s.eng.work with
        op := .sendbytes, a7 := a7, d8 := 0#8, ptr := ptr, n := n, i := 0, phase := .A }⟩ }) ∧
    (Admitted s .readbyte 0#16 0#16 → exec (.readbyte a7) s = .next { s with eng :=
      ⟨true, .readbyte .L1, { s.eng.work with
        op := .readbyte, a7 := a7, d8 := 0#8, ptr := 0#16, n := 1#16, i := 0, phase := .A }⟩ }) ∧
    (Admitted s .readbytes ptr n → exec (.readbytes a7 ptr n) s = .next { s with eng :=
      ⟨true, .readbytes .L1, { s.eng.work with
        op := .readbytes, a7 := a7, d8 := 0#8, ptr := ptr, n := n, i := 0, phase := .A }⟩ }) ∧
    (Admitted s .regwrrd ptr n → exec (.regwrrd a7 d8 ptr n) s = .next { s with eng :=
      ⟨true, .regwrrd .L1, { s.eng.work with
        op := .regwrrd, a7 := a7, d8 := d8, ptr := ptr, n := n, i := 0, phase := .A }⟩ })

/-- R62, R114: the entry's checks in their order, for the three commands with a payload and the two without. -/
def Obligations.EntryChecksInOrder : Prop :=
  ∀ (s : State) (a7 : BusAddr) (d8 : Byte) (ptr n : Half) (i : Instr),
    (i = .sendbytes a7 ptr n ∨ i = .readbytes a7 ptr n ∨ i = .regwrrd a7 d8 ptr n →
      (s.par.role = .target → exec i s = .refused .roleMismatch) ∧
      (s.par.role = .controller → s.eng.busy = true → exec i s = .fault .concurrentCall) ∧
      (s.par.role = .controller → s.eng.busy = false → n = 0#16 → exec i s = .refused .zeroLength) ∧
      (s.par.role = .controller → s.eng.busy = false → n ≠ 0#16 → 2 ^ s.par.cntW ≤ n.toNat →
        exec i s = .refused .lengthTooLarge) ∧
      (s.par.role = .controller → s.eng.busy = false → n ≠ 0#16 → n.toNat < 2 ^ s.par.cntW →
        2 ^ s.par.addrW < ptr.toNat + n.toNat → exec i s = .refused .bufferOutOfRange)) ∧
    (i = .sendbyte a7 d8 ∨ i = .readbyte a7 →
      (s.par.role = .target → exec i s = .refused .roleMismatch) ∧
      (s.par.role = .controller → s.eng.busy = true → exec i s = .fault .concurrentCall))

/-- R66: SENDBYTE from its word to its return, against every port that ends the transaction: the port accesses in
order, the result, and that nothing else of the block changes. -/
def Obligations.SendbyteRuns : Prop :=
  ∀ (s : State) (a7 : BusAddr) (d8 : Byte) (busy : List Snapshot) (last : Snapshot) (c : Half),
    Admitted s .sendbyte 0#16 0#16 → Undisturbed s → SendScript s.env busy last c →
    ∃ t0, exec (.sendbyte a7 d8) s = .next t0 ∧
      ∃ (k : Nat) (t : State), core.run k t0 = .next t ∧ t.eng.busy = false ∧ t.eng.seq = .idle ∧
        t.hist.results = s.hist.results ++ [.success .sendbyte (s.par.cntTrunc c == 0#16)] ∧
        t.hist.trace = s.hist.trace ++
          [.writeAddr (addrbyte a7 false), .writeCnt 1#16, .writeTxb d8, .start] ++
          (busy ++ [last]).map .poll ++ [.readCnt (s.par.cntTrunc c)] ∧
        SameBlock s t ∧ SameMemory s t

/-- R67: SENDBYTES from its word to its return: the first byte before the start, each later byte after a poll that
shows the transmit register free, none twice and none past the last, and the result. -/
def Obligations.SendbytesRuns : Prop :=
  ∀ (s : State) (a7 : BusAddr) (ptr n : Half) (b0 : Byte) (bytes : List Byte) (busy : List Snapshot)
    (last : Snapshot) (c : Half),
    Admitted s .sendbytes ptr n → Undisturbed s → SendScript s.env busy last c →
    payloadBytes s.mem ptr.toNat n.toNat = b0 :: bytes →
    ∃ t0, exec (.sendbytes a7 ptr n) s = .next t0 ∧
      ∃ (k : Nat) (t : State), core.run k t0 = .next t ∧ t.eng.busy = false ∧ t.eng.seq = .idle ∧
        t.hist.results = s.hist.results ++ [.success .sendbytes (s.par.cntTrunc c == 0#16)] ∧
        t.hist.trace = s.hist.trace ++
          [.writeAddr (addrbyte a7 false), .writeCnt n, .writeTxb b0, .start] ++
          sendTrace bytes (busy ++ [last]) ++ [.readCnt (s.par.cntTrunc c)] ∧
        SameBlock s t ∧ SameMemory s t

/-- R66: SENDBYTE equals SENDBYTES with length 1 from a memory byte that is its data, line by line of their port
traces and in their results, against any port at all (a hang included). -/
def Obligations.SendbyteIsSendbytesOfOne : Prop :=
  ∀ (s t u : State) (a7 : BusAddr) (ptr : Half),
    exec (.sendbyte a7 (s.mem.read ptr.toNat)) s = .next t → exec (.sendbytes a7 ptr 1#16) s = .next u →
    ∀ (k : Nat) (t' : State), engineLines k t = .ok t' →
      ∃ u', engineLines k u = .ok u' ∧ u'.hist.trace = t'.hist.trace ∧ u'.mem = t'.mem ∧
        u'.eng.busy = t'.eng.busy ∧
        ((t'.hist.results = s.hist.results ∧ u'.hist.results = s.hist.results) ∨
          ∃ b, t'.hist.results = s.hist.results ++ [.success .sendbyte b] ∧
            u'.hist.results = s.hist.results ++ [.success .sendbytes b])

/-- R68: READBYTE from its word to its return: the byte shown while the transaction runs, or the drained one with
READBYTES_DRAIN, and with neither a draw; no CNT read. -/
def Obligations.ReadbyteRuns : Prop :=
  ∀ (s : State) (a7 : BusAddr) (busy : List Snapshot) (last : Snapshot) (drain : List Snapshot) (bytes : List Byte),
    Admitted s .readbyte 0#16 0#16 → Undisturbed s →
    ReadScript s.env s.par.drainWaits s.par.readbytesDrain busy last drain bytes → bytes.length ≤ 1 →
    ∃ t0, exec (.readbyte a7) s = .next t0 ∧
      ∃ (k : Nat) (t : State), core.run k t0 = .next t ∧ t.eng.busy = false ∧ t.eng.seq = .idle ∧
        t.hist.results = s.hist.results ++ [.byte (bytes.headD s.drawAnswer)] ∧
        (∃ mid, t.hist.trace = s.hist.trace ++ [.writeAddr (addrbyte a7 true), .writeCnt 1#16, .start] ++ mid ∧
          ∀ x ∈ mid, (∃ p, x = .poll p) ∨ (∃ b, x = .readRxb b)) ∧
        SameBlock s t ∧ SameMemory s t

/-- R69, R73: READBYTES from its word to its return: ADDR with the read bit, the length and the start, then exactly the
polls and unloads of its loop and its drain, and one read of CNT; exactly the bytes the port delivered are stored, in
order, from `ptr`; the rest of memory is unchanged, on failure too; the result is the count's. -/
def Obligations.ReadbytesRuns : Prop :=
  ∀ (s : State) (a7 : BusAddr) (ptr n : Half) (busy : List Snapshot) (last : Snapshot) (drain : List Snapshot)
    (bytes : List Byte) (c : Half) (restCnts : List Half),
    Admitted s .readbytes ptr n → Undisturbed s → s.mem.wf = true →
    ReadScript s.env s.par.drainWaits s.par.readbytesDrain busy last drain bytes → bytes.length ≤ n.toNat →
    s.env.cnts = c :: restCnts →
    ∃ t0, exec (.readbytes a7 ptr n) s = .next t0 ∧
      ∃ (k : Nat) (t : State), core.run k t0 = .next t ∧ t.eng.busy = false ∧ t.eng.seq = .idle ∧
        t.hist.results = s.hist.results ++ [.success .readbytes (s.par.cntTrunc c == 0#16)] ∧
        t.hist.trace = s.hist.trace ++ [.writeAddr (addrbyte a7 true), .writeCnt n, .start] ++
          receiveTrace bytes (busy ++ [last]) ++ drain.map .poll ++ (bytes.drop (rxCount busy)).map .readRxb ++
          [.readCnt (s.par.cntTrunc c)] ∧
        (∀ j b, bytes[j]? = some b → t.mem.read (ptr.toNat + j) = b) ∧
        SameMemoryOutside s t ptr.toNat bytes.length ∧ SameBlock s t

/-- R81: no byte dropped or duplicated across the restart: against a port that follows R74 to R78 and a target that sends
`bytes`, REGWRRD returns true with exactly those bytes in `out[]`, stale bytes stored nowhere, and no other byte of
memory written. Its port accesses (R70): the write phase's five, then polls and unloads up to a poll that shows the
transmit register free and no byte, then the restart (the read bit flipped, the length reloaded, a second start), then
polls and unloads, then one read of CNT. -/
def Obligations.CombinedReadIsExact : Prop :=
  ∀ (s : State) (a7 : BusAddr) (reg : Byte) (ptr n : Half) (bytes : List Byte),
    Admitted s .regwrrd ptr n → Undisturbed s → s.mem.wf = true → bytes.length = n.toNat →
    CombinedScript s.env s.par bytes →
    ∃ t0, exec (.regwrrd a7 reg ptr n) s = .next t0 ∧
      ∃ (k : Nat) (t : State), core.run k t0 = .next t ∧ t.eng.busy = false ∧ t.eng.seq = .idle ∧
        t.hist.results = s.hist.results ++ [.success .regwrrd true] ∧
        (∃ (pre post : List PortAccess) (go : Snapshot), go.active = true ∧ go.txbe = true ∧ go.rxbf = false ∧
          t.hist.trace = s.hist.trace ++
            [.writeAddr (addrbyte a7 false), .writeTxb reg, .writeCnt 1#16, .writeRsen, .start] ++ pre ++
            [.poll go, .writeAddr (addrbyte a7 false ^^^ 1#8), .writeCnt n, .start] ++ post ++ [.readCnt 0#16] ∧
          ∀ x ∈ pre ++ post, (∃ p, x = .poll p) ∨ (∃ b, x = .readRxb b)) ∧
        (∀ j b, bytes[j]? = some b → t.mem.read (ptr.toNat + j) = b) ∧
        SameMemoryOutside s t ptr.toNat n.toNat ∧ SameBlock s t

/-- R70, R71: after an address NACK (the bus idle at the first poll) REGWRRD drains one byte into `out[0]` and nothing
else, and its result is the count's. -/
def Obligations.CombinedReadAfterNack : Prop :=
  ∀ (s : State) (a7 : BusAddr) (reg : Byte) (ptr n : Half) (idle : Snapshot) (drain : List Snapshot) (b : Byte)
    (c : Half) (restPolls : List Snapshot) (restRxbs : List Byte) (restCnts : List Half),
    Admitted s .regwrrd ptr n → Undisturbed s → s.mem.wf = true → idle.active = false →
    DrainPolls s.par.drainWaits drain → s.env.polls = idle :: (drain ++ restPolls) → s.env.rxbs = b :: restRxbs →
    s.env.cnts = c :: restCnts →
    ∃ t0, exec (.regwrrd a7 reg ptr n) s = .next t0 ∧
      ∃ (k : Nat) (t : State), core.run k t0 = .next t ∧ t.eng.busy = false ∧
        t.hist.results = s.hist.results ++ [.success .regwrrd (s.par.cntTrunc c == 0#16)] ∧
        t.hist.trace = s.hist.trace ++ [.writeAddr (addrbyte a7 false), .writeTxb reg, .writeCnt 1#16, .writeRsen,
          .start] ++ (idle :: drain).map .poll ++ [.readRxb b, .readCnt (s.par.cntTrunc c)] ∧
        t.mem.read ptr.toNat = b ∧ SameMemoryOutside s t ptr.toNat 1 ∧ SameBlock s t

/-- R80, R65: whatever came before, SENDBYTES, READBYTES and REGWRRD return false exactly when CNT reads non-zero at
the line that checks it; and where the port's next answer is a CNT_W-bit count (R24), that count is what is read. -/
def Obligations.SuccessLaw : Prop :=
  ∀ (s : State) (l : SeqPos) (op : CtrlOp), Undisturbed s → s.eng.busy = true → s.eng.seq = l →
    (l = .sendbytes .L7 ∧ op = .sendbytes) ∨ (l = .readbytes .L7 ∧ op = .readbytes) ∨
      (l = .regwrrd .L13 ∧ op = .regwrrd) →
    ∃ t : State, core.run 2 s = .next t ∧ t.eng.busy = false ∧ t.eng.seq = .idle ∧
      ∃ ok, t.hist.results = s.hist.results ++ [.success op ok] ∧ (ok = false ↔ s.cntAnswer ≠ 0#16) ∧
        (∀ c rest, s.env.cnts = c :: rest → c.toNat < 2 ^ s.par.cntW →
          (ok = false ↔ c ≠ 0#16) ∧ t.hist.trace = s.hist.trace ++ [.readCnt c])

/-- R72: no timeout. While the port keeps showing the transaction in progress, no number of steps that complete ends a
command: nothing is returned and the engine stays busy. And they do complete, each of them, where the port shows no
byte (a byte too many is a fault, R111): from a state of the invariant whose line, if it collects a byte, has room. -/
def Obligations.CommandWaitsWhileActive : Prop :=
  ∀ (k : Nat) (s : State), Undisturbed s → s.eng.busy = true → s.eng.seq.inLoop = true →
    AllActive s.env.polls → k ≤ s.env.polls.length →
    (∀ t : State, core.run k s = .next t →
      t.eng.busy = true ∧ t.eng.seq.inLoop = true ∧ t.hist.results = s.hist.results) ∧
    (Inv s → (∀ p ∈ s.env.polls, p.rxbf = false) → (s.eng.seq = .readbyte .L5 → s.eng.work.i = 0) →
      (s.eng.seq = .readbytes .L5 ∨ s.eng.seq = .regwrrd .L11 → s.eng.work.i < s.eng.work.n.toNat) →
      ∃ t : State, core.run k s = .next t)

/-- R71, R72: with DRAIN_WAITS the drain of each command that has one repeats its poll for as long as the port shows no
byte. -/
def Obligations.DrainWaitsForTheByte : Prop :=
  ∀ (s : State) (q : SeqPos) (ps rest : List Snapshot), Undisturbed s → s.eng.busy = true → s.par.drainWaits = true →
    (q = .readbyte (.drain .D2) ∨ q = .readbytes (.drain .D2) ∨ q = .regwrrd (.drain .D2)) → s.eng.seq = q →
    s.env.polls = ps ++ rest → (∀ p ∈ ps, p.rxbf = false) →
    ∃ t : State, core.run ps.length s = .next t ∧ t.eng.seq = q ∧ t.eng.busy = true ∧
      t.hist.results = s.hist.results ∧ t.hist.trace = s.hist.trace ++ ps.map .poll

/-- R68 to R71, R111: a byte shown after the n-th, or a drain after the n-th, faults with the line; and the faulted
step changes only `outcome`. -/
def Obligations.OverrunsFault : Prop :=
  ∀ (s : State) (q : SeqPos), Undisturbed s → s.eng.busy = true → s.eng.seq = q →
    (q = .readbyte .L5 → 1 ≤ s.eng.work.i →
      step s = .fault (.portOverrun q) ∧ advance s = { s with outcome := .fault (.portOverrun q) }) ∧
    (s.eng.work.n.toNat ≤ s.eng.work.i →
      (q = .readbytes .L5 ∨ q = .regwrrd .L11 →
        step s = .fault (.portOverrun q) ∧ advance s = { s with outcome := .fault (.portOverrun q) }) ∧
      (q = .readbyte (.drain .D1) ∨ q = .readbytes (.drain .D1) ∨ q = .regwrrd (.drain .D1) →
        step s = .fault (.drainOverrun q) ∧ advance s = { s with outcome := .fault (.drainOverrun q) }))

/-- R32, R36, R48, R82: the frame of every engine line. The VRF, the slots, the parameters and the record stay. A line
stores at most one byte, at `eng.ptr + eng.i`, and only the four lines that store a received byte do. It makes at most
one port access, and the port's registers change by that access only; RSEN is written, with 1, by REGWRRD L4 alone, and
STOPF by none. (Log 14: what a port register holds is the last value seen to pass.) The command's operands stay until
its return. -/
def Obligations.EngineLineFrame : Prop :=
  ∀ s t : State, s.mem.wf = true → engineLine s = .ok t → SameBlock s t ∧
    SameMemoryOutside s t (s.eng.work.ptr.toNat + s.eng.work.i) 1 ∧
    (s.eng.seq ∉ storingLines → SameMemory s t) ∧
    (∃ accs, accs.length ≤ 1 ∧ t.hist.trace = s.hist.trace ++ accs ∧
      t.port = accs.foldl PortRegs.afterAccess s.port ∧ (.writeRsen ∈ accs ↔ s.eng.seq = .regwrrd .L4)) ∧
    t.port.rsen = (if s.eng.seq = .regwrrd .L4 then true else s.port.rsen) ∧ t.port.stopf = s.port.stopf ∧
    t.hist.txLoads = s.hist.txLoads ∧ t.hist.lastEvent = s.hist.lastEvent ∧ t.hist.reads = s.hist.reads ∧
    (t.eng.busy = s.eng.busy ∧ t.hist.results = s.hist.results ∧ t.eng.work.op = s.eng.work.op ∧
        t.eng.work.a7 = s.eng.work.a7 ∧ t.eng.work.d8 = s.eng.work.d8 ∧ t.eng.work.ptr = s.eng.work.ptr ∧
        t.eng.work.n = s.eng.work.n ∨
      t.eng.busy = false ∧ t.eng.seq = .idle ∧ ∃ r, t.hist.results = s.hist.results ++ [r])

/-! ### The invariant of the machine -/

/-- The invariant holds after reset, for every choice of parameters in range. -/
def Obligations.InvariantAfterReset : Prop :=
  ∀ p : Params, p.wf = true → Inv (State.resetWith p)

/-- Every step keeps the invariant: memory's form, the buffers inside memory, the cursor in 17 bits, the phase flags
and the direction in step, and the engine's registers within the running command's payload. -/
def Obligations.StepKeepsTheInvariant : Prop :=
  ∀ s t : State, Inv s → step s = .next t → Inv t

/-- R44, R92: in a state that keeps the invariant no command, event or engine line addresses a byte that does not
exist. (Log 11: the fault is the model's own.) -/
def Obligations.NoCommandAddressesMissingMemory : Prop :=
  ∀ (s : State) (a : Nat), Inv s → step s = .fault (.noSuchAddress a) → s.outcome = .none →
    ∃ t, (∃ b, nextMove s = some (.act (.load b), t)) ∨ (∃ b v, nextMove s = some (.act (.store b v), t))

end
end

