-- ==== Sys2Proof/Laws/Encode.lean ====
section
/-! SUPPORT. The fields of a command word: what each field of an assembled word is, and that a word with clear reserved
bits is assembled from its fields (R50). -/

namespace Sys2Proof

@[simp] theorem fieldOpc_assembleWord (opc : BitVec 8) (a7 : BusAddr) (d8 : Byte) (ptr n : Half) :
    fieldOpc (assembleWord opc a7 d8 ptr n) = opc := by
  ext i hi
  rw [fieldOpc, assembleWord]
  interval_cases i <;> simp

@[simp] theorem fieldA7_assembleWord (opc : BitVec 8) (a7 : BusAddr) (d8 : Byte) (ptr n : Half) :
    fieldA7 (assembleWord opc a7 d8 ptr n) = a7 := by
  ext i hi
  rw [fieldA7, assembleWord]
  interval_cases i <;> simp

@[simp] theorem fieldD8_assembleWord (opc : BitVec 8) (a7 : BusAddr) (d8 : Byte) (ptr n : Half) :
    fieldD8 (assembleWord opc a7 d8 ptr n) = d8 := by
  ext i hi
  rw [fieldD8, assembleWord]
  interval_cases i <;> simp

@[simp] theorem fieldPtr_assembleWord (opc : BitVec 8) (a7 : BusAddr) (d8 : Byte) (ptr n : Half) :
    fieldPtr (assembleWord opc a7 d8 ptr n) = ptr := by
  ext i hi
  rw [fieldPtr, assembleWord]
  interval_cases i <;> simp

@[simp] theorem fieldN_assembleWord (opc : BitVec 8) (a7 : BusAddr) (d8 : Byte) (ptr n : Half) :
    fieldN (assembleWord opc a7 d8 ptr n) = n := by
  ext i hi
  rw [fieldN, assembleWord]
  interval_cases i <;> simp

theorem fieldHsel_eq (cw : CmdWord) : fieldHsel cw = (fieldD8 cw).extractLsb' 6 2 := by
  rw [fieldHsel, fieldD8]
  ext i hi
  interval_cases i <;> simp

theorem fieldHid_eq (cw : CmdWord) : fieldHid cw = (fieldD8 cw).extractLsb' 0 6 := by
  rw [fieldHid, fieldD8]
  ext i hi
  interval_cases i <;> simp

@[simp] theorem fieldHsel_assembleWord (opc : BitVec 8) (a7 : BusAddr) (hsel : HSel) (hid : BitVec 6) (ptr n : Half) :
    fieldHsel (assembleWord opc a7 (handlerByte hsel hid) ptr n) = hselBits hsel := by
  rw [fieldHsel_eq, fieldD8_assembleWord, handlerByte]
  generalize hselBits hsel = b
  ext i hi
  interval_cases i <;> simp

@[simp] theorem fieldHid_assembleWord (opc : BitVec 8) (a7 : BusAddr) (hsel : HSel) (hid : BitVec 6) (ptr n : Half) :
    fieldHid (assembleWord opc a7 (handlerByte hsel hid) ptr n) = hid := by
  rw [fieldHid_eq, fieldD8_assembleWord, handlerByte]
  generalize hselBits hsel = b
  ext i hi
  interval_cases i <;> simp

@[simp] theorem hselOf_assembleWord (opc : BitVec 8) (a7 : BusAddr) (hsel : HSel) (hid : BitVec 6) (ptr n : Half) :
    hselOf (assembleWord opc a7 (handlerByte hsel hid) ptr n) = hsel := by
  rw [hselOf, fieldHsel_assembleWord]
  cases hsel <;> decide

/-- The row of an assembled word is the row of its opcode (R53). -/
theorem rowOf_assembleWord (opc : BitVec 8) (a7 : BusAddr) (d8 : Byte) (ptr n : Half) :
    rowOf (assembleWord opc a7 d8 ptr n) = opcodeTable.find? (fun r => r.opc == opc) := by
  rw [rowOf, fieldOpc_assembleWord]

/-- One bit of a field that is clear. -/
theorem getElem_of_extractLsb' {cw : CmdWord} {start len : Nat} (h : cw.extractLsb' start len = 0#len) {i : Nat}
    (hi : i < 64) (hs : start ≤ i) (hl : i < start + len) : cw[i] = false := by
  have hb := congrArg (fun x => x.getLsbD (i - start)) h
  simp only [BitVec.getLsbD_extractLsb', BitVec.getLsbD_zero] at hb
  rw [show start + (i - start) = i by omega] at hb
  have hlt : i - start < len := by omega
  simpa [hlt, BitVec.getLsbD_eq_getElem hi] using hb

/-- A word whose reserved bits are clear is assembled from its fields (R50, R51). -/
theorem assembleWord_fields {cw : CmdWord} (h1 : cw.extractLsb' 55 1 = 0#1) (h0 : cw.extractLsb' 0 8 = 0#8) :
    assembleWord (fieldOpc cw) (fieldA7 cw) (fieldD8 cw) (fieldPtr cw) (fieldN cw) = cw := by
  ext i hi
  rw [assembleWord]
  interval_cases i <;> simp [fieldOpc, fieldA7, fieldD8, fieldPtr, fieldN]
  all_goals first
    | exact getElem_of_extractLsb' h0 (by decide) (by decide) (by decide)
    | exact getElem_of_extractLsb' h1 (by decide) (by decide) (by decide)

/-- The D8 field is HSEL:HID (R54). -/
theorem handlerByte_fields {cw : CmdWord} (h : fieldHsel cw = 0b01#2 ∨ fieldHsel cw = 0b10#2) :
    handlerByte (hselOf cw) (fieldHid cw) = fieldD8 cw := by
  have hs : hselBits (hselOf cw) = fieldHsel cw := by
    rw [hselOf]
    rcases h with h | h <;> rw [h] <;> decide
  rw [handlerByte, hs, fieldD8, fieldHsel, fieldHid]
  ext i hi
  interval_cases i <;> simp

end Sys2Proof
end

