-- ==== Sys2Proof/Laws/Memory.lean ====
section
/-! SUPPORT. The laws of data memory (R36): a read after a write, and that a write keeps the canonical form. -/

namespace Sys2Proof

@[simp] theorem Memory.read_nil (a : Nat) : Memory.read [] a = Config.unlistedByte := rfl

theorem Memory.read_of_wfFrom_lt {lo : Nat} {m : Memory} (h : Memory.wfFrom lo m = true) {a : Nat} (ha : a < lo) :
    Memory.read m a = Config.unlistedByte := by
  induction m generalizing lo with
  | nil => rfl
  | cons c rest ih =>
    obtain ⟨b, x⟩ := c
    simp only [Memory.wfFrom, Bool.and_eq_true, decide_eq_true_eq] at h
    obtain ⟨⟨hb, -⟩, hr⟩ := h
    rw [Memory.read, if_neg (by omega)]
    exact ih hr (by omega)

theorem Memory.wfFrom_mono {lo lo' : Nat} {m : Memory} (h : Memory.wfFrom lo m = true) (hl : lo' ≤ lo) :
    Memory.wfFrom lo' m = true := by
  cases m with
  | nil => rfl
  | cons c rest =>
    simp only [Memory.wfFrom, Bool.and_eq_true, decide_eq_true_eq] at h ⊢
    exact ⟨⟨by omega, h.1.2⟩, h.2⟩

theorem Memory.read_write_from {lo : Nat} {m : Memory} (h : Memory.wfFrom lo m = true) (a b : Nat) (v : Byte) :
    Memory.read (Memory.write m a v) b = if b = a then v else Memory.read m b := by
  induction m generalizing lo with
  | nil =>
    by_cases hv : v = Config.unlistedByte <;> by_cases hb : b = a <;> simp [Memory.write, Memory.read, hv, hb]
  | cons c rest ih =>
    obtain ⟨k, x⟩ := c
    have hw := h
    simp only [Memory.wfFrom, Bool.and_eq_true, decide_eq_true_eq] at h
    obtain ⟨⟨hk, hx⟩, hr⟩ := h
    rcases Nat.lt_trichotomy a k with hak | rfl | hka
    · by_cases hv : v = Config.unlistedByte
      · subst hv
        rw [Memory.write, if_pos hak, if_pos rfl]
        by_cases hb : b = a
        · subst hb
          rw [if_pos rfl, Memory.read, if_neg (by omega)]
          exact Memory.read_of_wfFrom_lt hr (by omega)
        · rw [if_neg hb]
      · rw [Memory.write, if_pos hak, if_neg hv, Memory.read]
    · by_cases hv : v = Config.unlistedByte
      · subst hv
        rw [Memory.write, if_neg (by omega), if_pos rfl, if_pos rfl]
        by_cases hb : b = a
        · subst hb
          rw [if_pos rfl]
          exact Memory.read_of_wfFrom_lt hr (by omega)
        · simp only [if_neg hb, Memory.read]
      · rw [Memory.write, if_neg (by omega), if_pos rfl, if_neg hv]
        by_cases hb : b = a <;> simp [Memory.read, hb]
    · rw [Memory.write, if_neg (by omega), if_neg (by omega), Memory.read, Memory.read, ih hr]
      by_cases hb : b = k
      · rw [if_pos hb, if_pos hb, if_neg (by omega)]
      · rw [if_neg hb, if_neg hb]

/-- A read after a write: the written byte at its address, every other byte as it was (R36). -/
theorem Memory.read_write {m : Memory} (h : m.wf = true) (a b : Nat) (v : Byte) :
    (m.write a v).read b = if b = a then v else m.read b :=
  Memory.read_write_from h a b v

theorem Memory.read_write_same {m : Memory} (h : m.wf = true) (a : Nat) (v : Byte) : (m.write a v).read a = v := by
  rw [Memory.read_write h, if_pos rfl]

theorem Memory.read_write_other {m : Memory} (h : m.wf = true) {a b : Nat} (hb : b ≠ a) (v : Byte) :
    (m.write a v).read b = m.read b := by
  rw [Memory.read_write h, if_neg hb]

theorem Memory.wfFrom_write {lo : Nat} {m : Memory} (h : Memory.wfFrom lo m = true) (a : Nat) (ha : lo ≤ a) (v : Byte) :
    Memory.wfFrom lo (Memory.write m a v) = true := by
  induction m generalizing lo with
  | nil => by_cases hv : v = Config.unlistedByte <;> simp [Memory.write, Memory.wfFrom, hv, ha]
  | cons c rest ih =>
    obtain ⟨k, x⟩ := c
    have hw := h
    simp only [Memory.wfFrom, Bool.and_eq_true, decide_eq_true_eq] at h
    obtain ⟨⟨hk, hx⟩, hr⟩ := h
    rcases Nat.lt_trichotomy a k with hak | rfl | hka
    · by_cases hv : v = Config.unlistedByte
      · rw [Memory.write, if_pos hak, if_pos hv]
        exact hw
      · rw [Memory.write, if_pos hak, if_neg hv]
        simp only [Memory.wfFrom, Bool.and_eq_true, decide_eq_true_eq]
        exact ⟨⟨ha, hv⟩, ⟨⟨by omega, hx⟩, hr⟩⟩
    · by_cases hv : v = Config.unlistedByte
      · rw [Memory.write, if_neg (by omega), if_pos rfl, if_pos hv]
        exact Memory.wfFrom_mono hr (by omega)
      · rw [Memory.write, if_neg (by omega), if_pos rfl, if_neg hv]
        simp only [Memory.wfFrom, Bool.and_eq_true, decide_eq_true_eq]
        exact ⟨⟨ha, hv⟩, hr⟩
    · rw [Memory.write, if_neg (by omega), if_neg (by omega)]
      simp only [Memory.wfFrom, Bool.and_eq_true, decide_eq_true_eq]
      exact ⟨⟨hk, hx⟩, ih hr (by omega)⟩

/-- A write keeps the canonical form. -/
theorem Memory.wf_write {m : Memory} (h : m.wf = true) (a : Nat) (v : Byte) : (m.write a v).wf = true :=
  Memory.wfFrom_write h a (Nat.zero_le a) v

/-- A cell of memory after a write is the written one or was there before. -/
theorem Memory.mem_write {m : Memory} {a : Nat} {v : Byte} {c : Host.Cell} (h : c ∈ m.write a v) :
    c = (a, v) ∨ c ∈ m := by
  induction m with
  | nil =>
    rw [Memory.write] at h
    split at h <;> simp_all
  | cons d rest ih =>
    obtain ⟨k, x⟩ := d
    rw [Memory.write] at h
    split at h
    · split at h
      · exact .inr h
      · exact (List.mem_cons.mp h).imp id id
    · split at h
      · split at h
        · exact .inr (List.mem_cons_of_mem _ h)
        · exact (List.mem_cons.mp h).imp id (List.mem_cons_of_mem _)
      · rcases List.mem_cons.mp h with rfl | h
        · exact .inr List.mem_cons_self
        · exact (ih h).imp id (List.mem_cons_of_mem _)

/-- A write below `hi` keeps memory below `hi`. -/
theorem Memory.below_write {hi : Nat} {m : Memory} (h : m.below hi = true) {a : Nat} (ha : a < hi) (v : Byte) :
    (m.write a v).below hi = true := by
  simp only [Memory.below, List.all_eq_true, decide_eq_true_eq] at h ⊢
  intro c hc
  rcases Memory.mem_write hc with rfl | hm
  · exact ha
  · exact h c hm

end Sys2Proof
end

