-- ==== Sys2Proof/Laws/State.lean ====
section
/-! SUPPORT. One lemma for each field of each state update, each true by definition: later proofs never unfold an update. -/

namespace Sys2Proof.Machine

/-! ### State.traced -/

@[simp] theorem State.traced_par (s : State) (x : PortAccess) : (s.traced x).par = s.par := rfl
@[simp] theorem State.traced_vrf (s : State) (x : PortAccess) : (s.traced x).vrf = s.vrf := rfl
@[simp] theorem State.traced_slots (s : State) (x : PortAccess) : (s.traced x).slots = s.slots := rfl
@[simp] theorem State.traced_eng (s : State) (x : PortAccess) : (s.traced x).eng = s.eng := rfl
@[simp] theorem State.traced_port (s : State) (x : PortAccess) : (s.traced x).port = s.port := rfl
@[simp] theorem State.traced_outcome (s : State) (x : PortAccess) : (s.traced x).outcome = s.outcome := rfl
@[simp] theorem State.traced_mem (s : State) (x : PortAccess) : (s.traced x).mem = s.mem := rfl
@[simp] theorem State.traced_env (s : State) (x : PortAccess) : (s.traced x).env = s.env := rfl
@[simp] theorem State.traced_hist (s : State) (x : PortAccess) :
    (s.traced x).hist = { s.hist with trace := s.hist.trace ++ [x] } := rfl

/-! ### State.portWriteAddr -/

@[simp] theorem State.portWriteAddr_par (s : State) (v : Byte) : (s.portWriteAddr v).par = s.par := rfl
@[simp] theorem State.portWriteAddr_vrf (s : State) (v : Byte) : (s.portWriteAddr v).vrf = s.vrf := rfl
@[simp] theorem State.portWriteAddr_slots (s : State) (v : Byte) : (s.portWriteAddr v).slots = s.slots := rfl
@[simp] theorem State.portWriteAddr_eng (s : State) (v : Byte) : (s.portWriteAddr v).eng = s.eng := rfl
@[simp] theorem State.portWriteAddr_port (s : State) (v : Byte) :
    (s.portWriteAddr v).port = { s.port with addr := v } := rfl
@[simp] theorem State.portWriteAddr_outcome (s : State) (v : Byte) : (s.portWriteAddr v).outcome = s.outcome := rfl
@[simp] theorem State.portWriteAddr_mem (s : State) (v : Byte) : (s.portWriteAddr v).mem = s.mem := rfl
@[simp] theorem State.portWriteAddr_env (s : State) (v : Byte) : (s.portWriteAddr v).env = s.env := rfl
@[simp] theorem State.portWriteAddr_hist (s : State) (v : Byte) :
    (s.portWriteAddr v).hist = { s.hist with trace := s.hist.trace ++ [.writeAddr v] } := rfl

/-! ### State.portWriteCnt -/

@[simp] theorem State.portWriteCnt_par (s : State) (v : Half) : (s.portWriteCnt v).par = s.par := rfl
@[simp] theorem State.portWriteCnt_vrf (s : State) (v : Half) : (s.portWriteCnt v).vrf = s.vrf := rfl
@[simp] theorem State.portWriteCnt_slots (s : State) (v : Half) : (s.portWriteCnt v).slots = s.slots := rfl
@[simp] theorem State.portWriteCnt_eng (s : State) (v : Half) : (s.portWriteCnt v).eng = s.eng := rfl
@[simp] theorem State.portWriteCnt_port (s : State) (v : Half) :
    (s.portWriteCnt v).port = { s.port with cnt := v } := rfl
@[simp] theorem State.portWriteCnt_outcome (s : State) (v : Half) : (s.portWriteCnt v).outcome = s.outcome := rfl
@[simp] theorem State.portWriteCnt_mem (s : State) (v : Half) : (s.portWriteCnt v).mem = s.mem := rfl
@[simp] theorem State.portWriteCnt_env (s : State) (v : Half) : (s.portWriteCnt v).env = s.env := rfl
@[simp] theorem State.portWriteCnt_hist (s : State) (v : Half) :
    (s.portWriteCnt v).hist = { s.hist with trace := s.hist.trace ++ [.writeCnt v] } := rfl

/-! ### State.portWriteTxb -/

@[simp] theorem State.portWriteTxb_par (s : State) (v : Byte) : (s.portWriteTxb v).par = s.par := rfl
@[simp] theorem State.portWriteTxb_vrf (s : State) (v : Byte) : (s.portWriteTxb v).vrf = s.vrf := rfl
@[simp] theorem State.portWriteTxb_slots (s : State) (v : Byte) : (s.portWriteTxb v).slots = s.slots := rfl
@[simp] theorem State.portWriteTxb_eng (s : State) (v : Byte) : (s.portWriteTxb v).eng = s.eng := rfl
@[simp] theorem State.portWriteTxb_port (s : State) (v : Byte) :
    (s.portWriteTxb v).port = { s.port with txb := v } := rfl
@[simp] theorem State.portWriteTxb_outcome (s : State) (v : Byte) : (s.portWriteTxb v).outcome = s.outcome := rfl
@[simp] theorem State.portWriteTxb_mem (s : State) (v : Byte) : (s.portWriteTxb v).mem = s.mem := rfl
@[simp] theorem State.portWriteTxb_env (s : State) (v : Byte) : (s.portWriteTxb v).env = s.env := rfl
@[simp] theorem State.portWriteTxb_hist (s : State) (v : Byte) :
    (s.portWriteTxb v).hist = { s.hist with trace := s.hist.trace ++ [.writeTxb v] } := rfl

/-! ### State.portWriteRsen -/

@[simp] theorem State.portWriteRsen_par (s : State) : (s.portWriteRsen).par = s.par := rfl
@[simp] theorem State.portWriteRsen_vrf (s : State) : (s.portWriteRsen).vrf = s.vrf := rfl
@[simp] theorem State.portWriteRsen_slots (s : State) : (s.portWriteRsen).slots = s.slots := rfl
@[simp] theorem State.portWriteRsen_eng (s : State) : (s.portWriteRsen).eng = s.eng := rfl
@[simp] theorem State.portWriteRsen_port (s : State) : (s.portWriteRsen).port = { s.port with rsen := true } := rfl
@[simp] theorem State.portWriteRsen_outcome (s : State) : (s.portWriteRsen).outcome = s.outcome := rfl
@[simp] theorem State.portWriteRsen_mem (s : State) : (s.portWriteRsen).mem = s.mem := rfl
@[simp] theorem State.portWriteRsen_env (s : State) : (s.portWriteRsen).env = s.env := rfl
@[simp] theorem State.portWriteRsen_hist (s : State) :
    (s.portWriteRsen).hist = { s.hist with trace := s.hist.trace ++ [.writeRsen] } := rfl

/-! ### State.portStart -/

@[simp] theorem State.portStart_par (s : State) : (s.portStart).par = s.par := rfl
@[simp] theorem State.portStart_vrf (s : State) : (s.portStart).vrf = s.vrf := rfl
@[simp] theorem State.portStart_slots (s : State) : (s.portStart).slots = s.slots := rfl
@[simp] theorem State.portStart_eng (s : State) : (s.portStart).eng = s.eng := rfl
@[simp] theorem State.portStart_port (s : State) : (s.portStart).port = { s.port with start := true } := rfl
@[simp] theorem State.portStart_outcome (s : State) : (s.portStart).outcome = s.outcome := rfl
@[simp] theorem State.portStart_mem (s : State) : (s.portStart).mem = s.mem := rfl
@[simp] theorem State.portStart_env (s : State) : (s.portStart).env = s.env := rfl
@[simp] theorem State.portStart_hist (s : State) :
    (s.portStart).hist = { s.hist with trace := s.hist.trace ++ [.start] } := rfl

/-! ### State.portClearStop -/

@[simp] theorem State.portClearStop_par (s : State) : (s.portClearStop).par = s.par := rfl
@[simp] theorem State.portClearStop_vrf (s : State) : (s.portClearStop).vrf = s.vrf := rfl
@[simp] theorem State.portClearStop_slots (s : State) : (s.portClearStop).slots = s.slots := rfl
@[simp] theorem State.portClearStop_eng (s : State) : (s.portClearStop).eng = s.eng := rfl
@[simp] theorem State.portClearStop_port (s : State) : (s.portClearStop).port = { s.port with stopf := false } := rfl
@[simp] theorem State.portClearStop_outcome (s : State) : (s.portClearStop).outcome = s.outcome := rfl
@[simp] theorem State.portClearStop_mem (s : State) : (s.portClearStop).mem = s.mem := rfl
@[simp] theorem State.portClearStop_env (s : State) : (s.portClearStop).env = s.env := rfl
@[simp] theorem State.portClearStop_hist (s : State) :
    (s.portClearStop).hist = { s.hist with trace := s.hist.trace ++ [.clearStop] } := rfl

/-! ### State.polled -/

@[simp] theorem State.polled_par (s : State) : (s.polled).par = s.par := rfl
@[simp] theorem State.polled_vrf (s : State) : (s.polled).vrf = s.vrf := rfl
@[simp] theorem State.polled_slots (s : State) : (s.polled).slots = s.slots := rfl
@[simp] theorem State.polled_eng (s : State) : (s.polled).eng = s.eng := rfl
@[simp] theorem State.polled_port (s : State) : (s.polled).port = { s.port with status := s.pollAnswer } := rfl
@[simp] theorem State.polled_outcome (s : State) : (s.polled).outcome = s.outcome := rfl
@[simp] theorem State.polled_mem (s : State) : (s.polled).mem = s.mem := rfl
@[simp] theorem State.polled_env (s : State) :
    (s.polled).env = { s.env with polls := s.env.polls.tail, drawn := s.env.drawn + 1 } := rfl
@[simp] theorem State.polled_hist (s : State) :
    (s.polled).hist = { s.hist with trace := s.hist.trace ++ [.poll s.pollAnswer] } := rfl

/-! ### State.rxbRead -/

@[simp] theorem State.rxbRead_par (s : State) : (s.rxbRead).par = s.par := rfl
@[simp] theorem State.rxbRead_vrf (s : State) : (s.rxbRead).vrf = s.vrf := rfl
@[simp] theorem State.rxbRead_slots (s : State) : (s.rxbRead).slots = s.slots := rfl
@[simp] theorem State.rxbRead_eng (s : State) : (s.rxbRead).eng = s.eng := rfl
@[simp] theorem State.rxbRead_port (s : State) : (s.rxbRead).port = { s.port with rxb := s.rxbAnswer } := rfl
@[simp] theorem State.rxbRead_outcome (s : State) : (s.rxbRead).outcome = s.outcome := rfl
@[simp] theorem State.rxbRead_mem (s : State) : (s.rxbRead).mem = s.mem := rfl
@[simp] theorem State.rxbRead_env (s : State) :
    (s.rxbRead).env = { s.env with rxbs := s.env.rxbs.tail, drawn := s.env.drawn + 1 } := rfl
@[simp] theorem State.rxbRead_hist (s : State) :
    (s.rxbRead).hist = { s.hist with trace := s.hist.trace ++ [.readRxb s.rxbAnswer] } := rfl

/-! ### State.cntRead -/

@[simp] theorem State.cntRead_par (s : State) : (s.cntRead).par = s.par := rfl
@[simp] theorem State.cntRead_vrf (s : State) : (s.cntRead).vrf = s.vrf := rfl
@[simp] theorem State.cntRead_slots (s : State) : (s.cntRead).slots = s.slots := rfl
@[simp] theorem State.cntRead_eng (s : State) : (s.cntRead).eng = s.eng := rfl
@[simp] theorem State.cntRead_port (s : State) : (s.cntRead).port = { s.port with cnt := s.cntAnswer } := rfl
@[simp] theorem State.cntRead_outcome (s : State) : (s.cntRead).outcome = s.outcome := rfl
@[simp] theorem State.cntRead_mem (s : State) : (s.cntRead).mem = s.mem := rfl
@[simp] theorem State.cntRead_env (s : State) :
    (s.cntRead).env = { s.env with cnts := s.env.cnts.tail, drawn := s.env.drawn + 1 } := rfl
@[simp] theorem State.cntRead_hist (s : State) :
    (s.cntRead).hist = { s.hist with trace := s.hist.trace ++ [.readCnt s.cntAnswer] } := rfl

/-! ### State.drew -/

@[simp] theorem State.drew_par (s : State) : (s.drew).par = s.par := rfl
@[simp] theorem State.drew_vrf (s : State) : (s.drew).vrf = s.vrf := rfl
@[simp] theorem State.drew_slots (s : State) : (s.drew).slots = s.slots := rfl
@[simp] theorem State.drew_eng (s : State) : (s.drew).eng = s.eng := rfl
@[simp] theorem State.drew_port (s : State) : (s.drew).port = s.port := rfl
@[simp] theorem State.drew_outcome (s : State) : (s.drew).outcome = s.outcome := rfl
@[simp] theorem State.drew_mem (s : State) : (s.drew).mem = s.mem := rfl
@[simp] theorem State.drew_env (s : State) :
    (s.drew).env = { s.env with draws := s.env.draws.tail, drawn := s.env.drawn + 1 } := rfl
@[simp] theorem State.drew_hist (s : State) : (s.drew).hist = s.hist := rfl

/-! ### State.setWork -/

@[simp] theorem State.setWork_par (s : State) (w : Work) : (s.setWork w).par = s.par := rfl
@[simp] theorem State.setWork_vrf (s : State) (w : Work) : (s.setWork w).vrf = s.vrf := rfl
@[simp] theorem State.setWork_slots (s : State) (w : Work) : (s.setWork w).slots = s.slots := rfl
@[simp] theorem State.setWork_eng (s : State) (w : Work) : (s.setWork w).eng = { s.eng with work := w } := rfl
@[simp] theorem State.setWork_port (s : State) (w : Work) : (s.setWork w).port = s.port := rfl
@[simp] theorem State.setWork_outcome (s : State) (w : Work) : (s.setWork w).outcome = s.outcome := rfl
@[simp] theorem State.setWork_mem (s : State) (w : Work) : (s.setWork w).mem = s.mem := rfl
@[simp] theorem State.setWork_env (s : State) (w : Work) : (s.setWork w).env = s.env := rfl
@[simp] theorem State.setWork_hist (s : State) (w : Work) : (s.setWork w).hist = s.hist := rfl

/-! ### State.goto -/

@[simp] theorem State.goto_par (s : State) (q : SeqPos) : (s.goto q).par = s.par := rfl
@[simp] theorem State.goto_vrf (s : State) (q : SeqPos) : (s.goto q).vrf = s.vrf := rfl
@[simp] theorem State.goto_slots (s : State) (q : SeqPos) : (s.goto q).slots = s.slots := rfl
@[simp] theorem State.goto_eng (s : State) (q : SeqPos) : (s.goto q).eng = { s.eng with seq := q } := rfl
@[simp] theorem State.goto_port (s : State) (q : SeqPos) : (s.goto q).port = s.port := rfl
@[simp] theorem State.goto_outcome (s : State) (q : SeqPos) : (s.goto q).outcome = s.outcome := rfl
@[simp] theorem State.goto_mem (s : State) (q : SeqPos) : (s.goto q).mem = s.mem := rfl
@[simp] theorem State.goto_env (s : State) (q : SeqPos) : (s.goto q).env = s.env := rfl
@[simp] theorem State.goto_hist (s : State) (q : SeqPos) : (s.goto q).hist = s.hist := rfl

/-! ### State.bumpI -/

@[simp] theorem State.bumpI_par (s : State) : (s.bumpI).par = s.par := rfl
@[simp] theorem State.bumpI_vrf (s : State) : (s.bumpI).vrf = s.vrf := rfl
@[simp] theorem State.bumpI_slots (s : State) : (s.bumpI).slots = s.slots := rfl
@[simp] theorem State.bumpI_eng (s : State) :
    (s.bumpI).eng = { s.eng with work := { s.eng.work with i := s.eng.work.i + 1 } } := rfl
@[simp] theorem State.bumpI_port (s : State) : (s.bumpI).port = s.port := rfl
@[simp] theorem State.bumpI_outcome (s : State) : (s.bumpI).outcome = s.outcome := rfl
@[simp] theorem State.bumpI_mem (s : State) : (s.bumpI).mem = s.mem := rfl
@[simp] theorem State.bumpI_env (s : State) : (s.bumpI).env = s.env := rfl
@[simp] theorem State.bumpI_hist (s : State) : (s.bumpI).hist = s.hist := rfl

/-! ### State.finish -/

@[simp] theorem State.finish_par (s : State) (r : Result) : (s.finish r).par = s.par := rfl
@[simp] theorem State.finish_vrf (s : State) (r : Result) : (s.finish r).vrf = s.vrf := rfl
@[simp] theorem State.finish_slots (s : State) (r : Result) : (s.finish r).slots = s.slots := rfl
@[simp] theorem State.finish_eng (s : State) (r : Result) :
    (s.finish r).eng = { busy := false, seq := .idle, work := Config.freeWork s.env.inst s.env.drawn } := rfl
@[simp] theorem State.finish_port (s : State) (r : Result) : (s.finish r).port = s.port := rfl
@[simp] theorem State.finish_outcome (s : State) (r : Result) : (s.finish r).outcome = s.outcome := rfl
@[simp] theorem State.finish_mem (s : State) (r : Result) : (s.finish r).mem = s.mem := rfl
@[simp] theorem State.finish_env (s : State) (r : Result) :
    (s.finish r).env = { s.env with drawn := s.env.drawn + 1 } := rfl
@[simp] theorem State.finish_hist (s : State) (r : Result) :
    (s.finish r).hist = { s.hist with results := s.hist.results ++ [r] } := rfl

/-! ### State.checkCount -/

@[simp] theorem State.checkCount_par (s : State) : (s.checkCount).par = s.par := rfl
@[simp] theorem State.checkCount_vrf (s : State) : (s.checkCount).vrf = s.vrf := rfl
@[simp] theorem State.checkCount_slots (s : State) : (s.checkCount).slots = s.slots := rfl
@[simp] theorem State.checkCount_eng (s : State) :
    (s.checkCount).eng = { s.eng with work := { s.eng.work with ok := countOk s.cntAnswer } } := rfl
@[simp] theorem State.checkCount_port (s : State) : (s.checkCount).port = { s.port with cnt := s.cntAnswer } := rfl
@[simp] theorem State.checkCount_outcome (s : State) : (s.checkCount).outcome = s.outcome := rfl
@[simp] theorem State.checkCount_mem (s : State) : (s.checkCount).mem = s.mem := rfl
@[simp] theorem State.checkCount_env (s : State) :
    (s.checkCount).env = { s.env with cnts := s.env.cnts.tail, drawn := s.env.drawn + 1 } := rfl
@[simp] theorem State.checkCount_hist (s : State) :
    (s.checkCount).hist = { s.hist with trace := s.hist.trace ++ [.readCnt s.cntAnswer] } := rfl

/-! ### State.delivered -/

@[simp] theorem State.delivered_par (s : State) (k : EventKind) : (s.delivered k).par = s.par := rfl
@[simp] theorem State.delivered_vrf (s : State) (k : EventKind) : (s.delivered k).vrf = s.vrf := rfl
@[simp] theorem State.delivered_slots (s : State) (k : EventKind) : (s.delivered k).slots = s.slots := rfl
@[simp] theorem State.delivered_eng (s : State) (k : EventKind) : (s.delivered k).eng = s.eng := rfl
@[simp] theorem State.delivered_port (s : State) (k : EventKind) : (s.delivered k).port = s.port := rfl
@[simp] theorem State.delivered_outcome (s : State) (k : EventKind) : (s.delivered k).outcome = s.outcome := rfl
@[simp] theorem State.delivered_mem (s : State) (k : EventKind) : (s.delivered k).mem = s.mem := rfl
@[simp] theorem State.delivered_env (s : State) (k : EventKind) : (s.delivered k).env = s.env := rfl
@[simp] theorem State.delivered_hist (s : State) (k : EventKind) :
    (s.delivered k).hist = { s.hist with lastEvent := some k } := rfl

/-! ### State.answer -/

@[simp] theorem State.answer_par (s : State) (v : Byte) : (s.answer v).par = s.par := rfl
@[simp] theorem State.answer_vrf (s : State) (v : Byte) : (s.answer v).vrf = s.vrf := rfl
@[simp] theorem State.answer_slots (s : State) (v : Byte) : (s.answer v).slots = s.slots := rfl
@[simp] theorem State.answer_eng (s : State) (v : Byte) : (s.answer v).eng = s.eng := rfl
@[simp] theorem State.answer_port (s : State) (v : Byte) : (s.answer v).port = { s.port with txb := v } := rfl
@[simp] theorem State.answer_outcome (s : State) (v : Byte) : (s.answer v).outcome = s.outcome := rfl
@[simp] theorem State.answer_mem (s : State) (v : Byte) : (s.answer v).mem = s.mem := rfl
@[simp] theorem State.answer_env (s : State) (v : Byte) : (s.answer v).env = s.env := rfl
@[simp] theorem State.answer_hist (s : State) (v : Byte) :
    (s.answer v).hist =
      { s.hist with trace := s.hist.trace ++ [.writeTxb v], txLoads := s.hist.txLoads ++ [v] } := rfl

/-! ### State.entered -/

@[simp] theorem State.entered_par (s : State) (op : CtrlOp) (a7 : BusAddr) (d8 : Byte) (ptr n : Half) (q : SeqPos) :
    (s.entered op a7 d8 ptr n q).par = s.par := rfl
@[simp] theorem State.entered_vrf (s : State) (op : CtrlOp) (a7 : BusAddr) (d8 : Byte) (ptr n : Half) (q : SeqPos) :
    (s.entered op a7 d8 ptr n q).vrf = s.vrf := rfl
@[simp] theorem State.entered_slots (s : State) (op : CtrlOp) (a7 : BusAddr) (d8 : Byte) (ptr n : Half) (q : SeqPos) :
    (s.entered op a7 d8 ptr n q).slots = s.slots := rfl
@[simp] theorem State.entered_eng (s : State) (op : CtrlOp) (a7 : BusAddr) (d8 : Byte) (ptr n : Half) (q : SeqPos) :
    (s.entered op a7 d8 ptr n q).eng =
      { busy := true, seq := q, work := entryWork s.eng.work op a7 d8 ptr n } := rfl
@[simp] theorem State.entered_port (s : State) (op : CtrlOp) (a7 : BusAddr) (d8 : Byte) (ptr n : Half) (q : SeqPos) :
    (s.entered op a7 d8 ptr n q).port = s.port := rfl
@[simp] theorem State.entered_outcome (s : State) (op : CtrlOp) (a7 : BusAddr) (d8 : Byte) (ptr n : Half) (q : SeqPos) :
    (s.entered op a7 d8 ptr n q).outcome = s.outcome := rfl
@[simp] theorem State.entered_mem (s : State) (op : CtrlOp) (a7 : BusAddr) (d8 : Byte) (ptr n : Half) (q : SeqPos) :
    (s.entered op a7 d8 ptr n q).mem = s.mem := rfl
@[simp] theorem State.entered_env (s : State) (op : CtrlOp) (a7 : BusAddr) (d8 : Byte) (ptr n : Half) (q : SeqPos) :
    (s.entered op a7 d8 ptr n q).env = s.env := rfl
@[simp] theorem State.entered_hist (s : State) (op : CtrlOp) (a7 : BusAddr) (d8 : Byte) (ptr n : Half) (q : SeqPos) :
    (s.entered op a7 d8 ptr n q).hist = s.hist := rfl

/-! ### State.turnTaken -/

@[simp] theorem State.turnTaken_par (s : State) : (s.turnTaken).par = s.par := rfl
@[simp] theorem State.turnTaken_vrf (s : State) : (s.turnTaken).vrf = s.vrf := rfl
@[simp] theorem State.turnTaken_slots (s : State) : (s.turnTaken).slots = s.slots := rfl
@[simp] theorem State.turnTaken_eng (s : State) : (s.turnTaken).eng = s.eng := rfl
@[simp] theorem State.turnTaken_port (s : State) : (s.turnTaken).port = s.port := rfl
@[simp] theorem State.turnTaken_outcome (s : State) : (s.turnTaken).outcome = s.outcome := rfl
@[simp] theorem State.turnTaken_mem (s : State) : (s.turnTaken).mem = s.mem := rfl
@[simp] theorem State.turnTaken_env (s : State) : (s.turnTaken).env = { s.env with turns := s.env.turns.tail } := rfl
@[simp] theorem State.turnTaken_hist (s : State) : (s.turnTaken).hist = s.hist := rfl

/-! ### State.saw -/

@[simp] theorem State.saw_par (s : State) (x : Seen) : (s.saw x).par = s.par := rfl
@[simp] theorem State.saw_vrf (s : State) (x : Seen) : (s.saw x).vrf = s.vrf := rfl
@[simp] theorem State.saw_slots (s : State) (x : Seen) : (s.saw x).slots = s.slots := rfl
@[simp] theorem State.saw_eng (s : State) (x : Seen) : (s.saw x).eng = s.eng := rfl
@[simp] theorem State.saw_port (s : State) (x : Seen) : (s.saw x).port = s.port := rfl
@[simp] theorem State.saw_outcome (s : State) (x : Seen) : (s.saw x).outcome = s.outcome := rfl
@[simp] theorem State.saw_mem (s : State) (x : Seen) : (s.saw x).mem = s.mem := rfl
@[simp] theorem State.saw_env (s : State) (x : Seen) : (s.saw x).env = s.env := rfl
@[simp] theorem State.saw_hist (s : State) (x : Seen) :
    (s.saw x).hist = { s.hist with reads := s.hist.reads ++ [x] } := rfl

/-! ### State.asInstance -/

@[simp] theorem State.asInstance_par (s : State) (k : Nat) (m : Memory) : (s.asInstance k m).par = s.par := rfl
@[simp] theorem State.asInstance_vrf (s : State) (k : Nat) (m : Memory) : (s.asInstance k m).vrf = s.vrf := rfl
@[simp] theorem State.asInstance_slots (s : State) (k : Nat) (m : Memory) : (s.asInstance k m).slots = s.slots := rfl
@[simp] theorem State.asInstance_eng (s : State) (k : Nat) (m : Memory) : (s.asInstance k m).eng = s.eng := rfl
@[simp] theorem State.asInstance_port (s : State) (k : Nat) (m : Memory) : (s.asInstance k m).port = s.port := rfl
@[simp] theorem State.asInstance_outcome (s : State) (k : Nat) (m : Memory) :
    (s.asInstance k m).outcome = s.outcome := rfl
@[simp] theorem State.asInstance_mem (s : State) (k : Nat) (m : Memory) : (s.asInstance k m).mem = m := rfl
@[simp] theorem State.asInstance_env (s : State) (k : Nat) (m : Memory) :
    (s.asInstance k m).env = { s.env with inst := k } := rfl
@[simp] theorem State.asInstance_hist (s : State) (k : Nat) (m : Memory) : (s.asInstance k m).hist = s.hist := rfl

end Sys2Proof.Machine
end

