-- ==== Sys2Proof/Laws/Ops.lean ====
section
/-! SUPPORT. What the shared operations can answer: data memory through the state, the record, the drain and the payload
accesses of the engine. -/

namespace Sys2Proof.Machine

theorem ofExcept_eq_next {r : Except Fault State} {t : State} : ofExcept r = .next t ↔ r = .ok t := by
  cases r <;> simp [ofExcept]

theorem ofExcept_eq_fault {r : Except Fault State} {f : Fault} : ofExcept r = .fault f ↔ r = .error f := by
  cases r <;> simp [ofExcept]

theorem ofExcept_ne_refused (r : Except Fault State) (x : Refusal) : ofExcept r ≠ .refused x := by
  cases r <;> simp [ofExcept]

theorem State.readByte_of_lt {s : State} {a : Nat} (h : a < 2 ^ s.par.addrW) : s.readByte a = .ok (s.mem.read a) := by
  rw [State.readByte, if_pos h]

theorem State.readByte_eq_ok {s : State} {a : Nat} {v : Byte} :
    s.readByte a = .ok v ↔ a < 2 ^ s.par.addrW ∧ v = s.mem.read a := by
  rw [State.readByte]
  split <;> simp_all [eq_comm]

theorem State.readByte_eq_error {s : State} {a : Nat} {f : Fault} :
    s.readByte a = .error f ↔ 2 ^ s.par.addrW ≤ a ∧ f = .noSuchAddress a := by
  rw [State.readByte]
  split <;> simp_all [eq_comm]

theorem State.writeByte_of_lt {s : State} {a : Nat} {v : Byte} (h : a < 2 ^ s.par.addrW) :
    s.writeByte a v = .ok { s with mem := s.mem.write a v } := by
  rw [State.writeByte, if_pos h]

theorem State.writeByte_eq_ok {s t : State} {a : Nat} {v : Byte} :
    s.writeByte a v = .ok t ↔ a < 2 ^ s.par.addrW ∧ t = { s with mem := s.mem.write a v } := by
  rw [State.writeByte]
  split <;> simp_all [eq_comm]

theorem State.writeByte_eq_error {s : State} {a : Nat} {v : Byte} {f : Fault} :
    s.writeByte a v = .error f ↔ 2 ^ s.par.addrW ≤ a ∧ f = .noSuchAddress a := by
  rw [State.writeByte]
  split <;> simp_all [eq_comm]

/-- The first record is kept (R113). -/
theorem State.record_of_none {s : State} (h : s.outcome = .none) (r : Record) : s.record r = { s with outcome := r } := by
  rw [State.record, h]

theorem State.record_of_ne_none {s : State} (h : s.outcome ≠ .none) (r : Record) : s.record r = s := by
  rw [State.record]
  split
  · contradiction
  · rfl

/-- A count of `CNT_W` bits is held as it is (R24). -/
theorem cntTrunc_of_lt {p : Params} {c : Half} (h : c.toNat < 2 ^ p.cntW) : p.cntTrunc c = c := by
  simp [Params.cntTrunc, Nat.mod_eq_of_lt h]

/-- `CNT_W` bits of a count (R24). -/
theorem cntTrunc_lt {p : Params} (h : p.cntW ≤ 16) (c : Half) : (p.cntTrunc c).toNat < 2 ^ p.cntW := by
  have hp : 2 ^ p.cntW ≤ 2 ^ 16 := Nat.pow_le_pow_right (by decide) h
  have hm : c.toNat % 2 ^ p.cntW < 2 ^ p.cntW := Nat.mod_lt _ (Nat.two_pow_pos _)
  rw [Params.cntTrunc, BitVec.toNat_ofNat, Nat.mod_eq_of_lt (by omega)]
  exact hm

theorem loadPayload_eq_ok {k : Nat} {s t : State} :
    loadPayload k s = .ok t ↔
      s.eng.work.ptr.toNat + k < 2 ^ s.par.addrW ∧ t = s.portWriteTxb (s.mem.read (s.eng.work.ptr.toNat + k)) := by
  rw [loadPayload]
  split
  · rename_i v hv
    obtain ⟨h, rfl⟩ := State.readByte_eq_ok.mp hv
    simp [h, eq_comm]
  · rename_i f hf
    have := (State.readByte_eq_error.mp hf).1
    simp only [reduceCtorEq, false_iff, not_and]
    omega

theorem storePayload_eq_ok {s t : State} :
    storePayload s = .ok t ↔
      s.eng.work.ptr.toNat + s.eng.work.i < 2 ^ s.par.addrW ∧
        t = State.bumpI { s.rxbRead with
          mem := s.mem.write (s.eng.work.ptr.toNat + s.eng.work.i) s.rxbAnswer } := by
  rw [storePayload]
  split
  · rename_i v hv
    obtain ⟨h, rfl⟩ := State.writeByte_eq_ok.mp hv
    simp only [State.rxbRead_par] at h
    simp [h, eq_comm]
  · rename_i f hf
    have := (State.writeByte_eq_error.mp hf).1
    simp only [State.rxbRead_par] at this
    simp only [reduceCtorEq, false_iff, not_and]
    omega

theorem thenGoto_eq_ok {r : Except Fault State} {q : SeqPos} {t : State} :
    thenGoto r q = .ok t ↔ ∃ u, r = .ok u ∧ t = u.goto q := by
  cases r <;> simp [thenGoto, eq_comm]

/-- What the drain can answer (R71). -/
theorem drainLine_eq_ok {own : DrainLine → SeqPos} {back : SeqPos} {unload : State → Except Fault State} {d : DrainLine}
    {s t : State} (h : drainLine own back unload d s = .ok t) :
    (d = .D1 ∧ s.eng.work.i < s.eng.work.n.toNat ∧ t = s.goto (own .D2)) ∨
    (d = .D2 ∧ s.par.drainWaits = true ∧ t = s.polled.goto (if s.pollAnswer.rxbf then own .D3 else own .D2)) ∨
    (d = .D2 ∧ s.par.drainWaits = false ∧ t = s.goto (own .D3)) ∨
    (d = .D3 ∧ ∃ u, unload s = .ok u ∧ t = u.goto back) := by
  cases d with
  | D1 =>
    rw [drainLine] at h
    split at h
    · cases h
    · cases h
      exact .inl ⟨rfl, by omega, rfl⟩
  | D2 =>
    rw [drainLine] at h
    split at h
    · cases h
      exact .inr (.inl ⟨rfl, ‹_›, rfl⟩)
    · cases h
      exact .inr (.inr (.inl ⟨rfl, by simpa using ‹¬ s.par.drainWaits = true›, rfl⟩))
  | D3 => exact .inr (.inr (.inr ⟨rfl, thenGoto_eq_ok.mp h⟩))

end Sys2Proof.Machine
end

