-- ==== Sys2Proof/Laws/Step.lean ====
section
/-! SUPPORT. What a step can do: the moves of the agents, and the engine's steps while nothing disturbs a command. -/

namespace Sys2Proof.Machine

theorem step_of_move {s t : State} {m : Move} (h : nextMove s = some (m, t)) : step s = perform m t := by
  rw [step, h]

theorem advance_of_move {s t : State} {m : Move} (h : nextMove s = some (m, t)) :
    advance s = settled t (perform m t) := by
  rw [advance, h]

theorem step_of_rest {s : State} (h : nextMove s = none) : step s = atRest s := by
  rw [step, h]

theorem advance_of_rest {s : State} (h : nextMove s = none) : advance s = s := by
  rw [advance, h]

/-- The agent that moves is one that can. -/
theorem enabled_of_pickAgent {s : State} {a : Agent} (h : pickAgent s = some a) : enabled s a = true := by
  rw [pickAgent] at h
  split at h
  · exact List.find?_some h
  · split at h
    · cases h
      assumption
    · exact List.find?_some h

/-- With no agent that can move there is no move. -/
theorem nextMove_eq_none {s : State} (h : ∀ a, enabled s a = false) : nextMove s = none := by
  rcases hp : pickAgent s with _ | a
  · rw [nextMove, hp]
  · simpa [h a] using enabled_of_pickAgent hp

/-- Every move and the state it starts from: one turn and at most one input are used up, nothing else. -/
theorem nextMove_cases {s t : State} {m : Move} (h : nextMove s = some (m, t)) :
    (∃ x rest, s.outcome = .none ∧ s.eng.busy = false ∧ s.env.fg = x :: rest ∧ m = .act x ∧
      t = { s with env := { s.env with turns := s.env.turns.tail, fg := rest } }) ∨
    (∃ x rest, s.outcome = .none ∧ s.env.other = x :: rest ∧ m = .act x ∧
      t = { s with env := { s.env with turns := s.env.turns.tail, other := rest } }) ∨
    (∃ x rest, s.outcome = .none ∧ s.env.port = x :: rest ∧ m = .port x ∧
      ((∃ cw, x = .deliver cw) → s.env.masked = false) ∧
      t = { s with env := { s.env with turns := s.env.turns.tail, port := rest } }) ∨
    (s.outcome = .none ∧ s.eng.seq ≠ .idle ∧ m = .engine ∧
      t = { s with env := { s.env with turns := s.env.turns.tail } }) ∨
    (0 < s.env.resets ∧ m = .reset ∧
      t = { s with env := { s.env with turns := s.env.turns.tail, resets := s.env.resets - 1 } }) := by
  rw [nextMove] at h
  split at h
  · cases h
  rename_i a ha
  have he := enabled_of_pickAgent ha
  cases a with
  | foreground =>
    simp only [takeMove] at h
    split at h
    · cases h
    · rename_i x rest hx
      cases h
      simp only [enabled, State.running, Bool.and_eq_true, beq_iff_eq, Bool.not_eq_true'] at he
      exact .inl ⟨x, rest, he.1.1, he.1.2, hx, rfl, rfl⟩
  | other =>
    simp only [takeMove] at h
    split at h
    · cases h
    · rename_i x rest hx
      cases h
      simp only [enabled, State.running, Bool.and_eq_true, beq_iff_eq] at he
      exact .inr (.inl ⟨x, rest, he.1, hx, rfl, rfl⟩)
  | port =>
    simp only [takeMove] at h
    split at h
    · cases h
    · rename_i x rest hx
      cases h
      simp only [enabled, State.running, Bool.and_eq_true, beq_iff_eq, hx] at he
      refine .inr (.inr (.inl ⟨x, rest, he.1, hx, rfl, ?_, rfl⟩))
      rintro ⟨cw, rfl⟩
      simpa using he.2
  | engine =>
    simp only [takeMove] at h
    cases h
    simp only [enabled, State.running, Bool.and_eq_true, beq_iff_eq, bne_iff_ne] at he
    exact .inr (.inr (.inr (.inl ⟨he.1, he.2, rfl, rfl⟩)))
  | device =>
    simp only [takeMove] at h
    cases h
    simp only [enabled, decide_eq_true_eq] at he
    exact .inr (.inr (.inr (.inr ⟨he, rfl, rfl⟩)))

/-- What moves next depends neither on what the shared memory holds nor on which instance this is. -/
theorem nextMove_asInstance {s t : State} {m : Move} (k : Nat) (mem : Memory) (h : nextMove s = some (m, t)) :
    nextMove (s.asInstance k mem) = some (m, t.asInstance k mem) := by
  have he : enabled (s.asInstance k mem) = enabled s := funext fun a => by cases a <;> rfl
  have hp : pickAgent (s.asInstance k mem) = pickAgent s := by simp only [pickAgent, he, State.asInstance_env]
  rw [nextMove] at h ⊢
  rw [hp]
  split at h
  · cases h
  · rename_i a _
    cases a <;> simp only [takeMove] at h ⊢
    case device => cases h; rfl
    case engine => cases h; rfl
    all_goals (split at h <;> cases h; rename_i hx; simp [hx, State.turnTaken, State.asInstance])

/-- No word is left in the rest of a list that holds none. -/
theorem NoWord.tail {x : Action} {xs : List Action} (h : NoWord (x :: xs)) : NoWord xs :=
  fun cw hc => h cw (List.mem_cons_of_mem x hc)

/-- No event is left in the rest of a list that holds none. -/
theorem NoEvent.tail {x : PortAction} {xs : List PortAction} (h : NoEvent (x :: xs)) : NoEvent xs :=
  fun cw hc => h cw (List.mem_cons_of_mem x hc)

/-- Undisturbed and busy, the engine moves. -/
theorem nextMove_engine {s : State} (hu : Undisturbed s) (hb : s.eng.busy = true) (hq : s.eng.seq ≠ .idle) :
    nextMove s = some (.engine, s) := by
  obtain ⟨ho, hp, hot, hr, ht⟩ := hu
  have hpick : pickAgent s = some .engine := by
    simp [pickAgent, ht, agentOrder, enabled, State.running, ho, hp, hot, hr, hb, hq]
  rw [nextMove, hpick]
  simp only [takeMove, Option.some.injEq, Prod.mk.injEq, true_and]
  rw [State.turnTaken, ht]
  cases s with
  | mk par vrf slots eng port outcome mem env hist =>
    cases env
    simp_all

/-- Undisturbed and busy, a step that the line completes is that line. -/
theorem step_engine {s : State} (hu : Undisturbed s) (hb : s.eng.busy = true) (hq : s.eng.seq ≠ .idle) :
    step s = ofExcept (engineLine s) := by
  rw [step_of_move (nextMove_engine hu hb hq), perform]

theorem run_zero (s : State) : core.run 0 s = .next s := rfl

/-- One step of a run. -/
theorem run_step {s t : State} (h : step s = .next t) (k : Nat) : core.run (k + 1) s = core.run k t := by
  have hc : core.step s = .next t := h
  simp only [Host.Core.run, hc]

theorem run_fault {s : State} {f : Fault} (h : step s = .fault f) (k : Nat) : core.run (k + 1) s = .fault f := by
  have hc : core.step s = .fault f := h
  simp only [Host.Core.run, hc]

theorem run_refused {s : State} {r : Refusal} (h : step s = .refused r) (k : Nat) :
    core.run (k + 1) s = .refused r := by
  have hc : core.step s = .refused r := h
  simp only [Host.Core.run, hc]

/-- One engine line of an undisturbed run. -/
theorem run_line {s t : State} (hu : Undisturbed s) (hb : s.eng.busy = true) (hq : s.eng.seq ≠ .idle)
    (h : engineLine s = .ok t) (k : Nat) : core.run (k + 1) s = core.run k t := by
  apply run_step
  rw [step_engine hu hb hq, h, ofExcept]

/-- A run of one step and more begins with a step that answers a next state. -/
theorem step_of_run {s u : State} {k : Nat} (h : core.run (k + 1) s = .next u) :
    ∃ t, step s = .next t ∧ core.run k t = .next u := by
  rcases hs : step s with t | f | r
  · exact ⟨t, rfl, by rwa [run_step hs] at h⟩
  · rw [run_fault hs] at h
    cases h
  · rw [run_refused hs] at h
    cases h

/-- Runs compose. -/
theorem run_add {j k : Nat} {s t u : State} (h : core.run j s = .next t) (h' : core.run k t = .next u) :
    core.run (j + k) s = .next u := by
  induction j generalizing s with
  | zero =>
    cases h
    rwa [Nat.zero_add]
  | succ j ih =>
    obtain ⟨v, hv, hr⟩ := step_of_run h
    rw [Nat.add_right_comm, run_step hv]
    exact ih hr

end Sys2Proof.Machine
end

