-- ==== Sys2Proof/Laws/Engine.lean ====
section
/-! SUPPORT. What every engine line leaves alone, and runs of an undisturbed command composed line by line. -/

namespace Sys2Proof.Machine

theorem SameBlock.refl (s : State) : SameBlock s s := ⟨rfl, rfl, rfl, rfl⟩

theorem SameBlock.trans {s t u : State} (h : SameBlock s t) (h' : SameBlock t u) : SameBlock s u :=
  ⟨h'.1.trans h.1, h'.2.1.trans h.2.1, h'.2.2.1.trans h.2.2.1, h'.2.2.2.trans h.2.2.2⟩

/-- An engine line touches the engine, the port, memory, the answers and the records only (R32). -/
theorem engineLine_keeps {s t : State} (h : engineLine s = .ok t) : SameBlock s t ∧ SameInputs s t := by
  have drain : ∀ {own back unload d}, drainLine own back unload d s = .ok t →
      (∀ u, unload s = .ok u → SameBlock s u ∧ SameInputs s u) → SameBlock s t ∧ SameInputs s t := by
    intro own back unload d h hu
    rcases drainLine_eq_ok h with ⟨-, -, rfl⟩ | ⟨-, -, rfl⟩ | ⟨-, -, rfl⟩ | ⟨-, u, hh, rfl⟩
    · simp [SameBlock, SameInputs]
    · simp [SameBlock, SameInputs]
    · simp [SameBlock, SameInputs]
    · simpa [SameBlock, SameInputs] using hu u hh
  have store : ∀ u, storePayload s = .ok u → SameBlock s u ∧ SameInputs s u := by
    intro u hu
    obtain ⟨-, rfl⟩ := storePayload_eq_ok.mp hu
    simp [SameBlock, SameInputs]
  rw [engineLine] at h
  split at h
  · cases h; simp [SameBlock, SameInputs]
  · rename_i l hl
    cases l <;> (cases h; simp [SameBlock, SameInputs])
  · rename_i l hl
    cases l <;> simp only [sendbytesLine] at h
    case L3 =>
      obtain ⟨u, hu, rfl⟩ := thenGoto_eq_ok.mp h
      obtain ⟨-, rfl⟩ := loadPayload_eq_ok.mp hu
      simp [SameBlock, SameInputs]
    case L6 =>
      split at h
      · rename_i u hu
        obtain ⟨-, rfl⟩ := loadPayload_eq_ok.mp hu
        cases h
        simp [SameBlock, SameInputs]
      · cases h
    all_goals (cases h; simp [SameBlock, SameInputs])
  · rename_i l hl
    cases l <;> simp only [readbyteLine] at h
    case drain =>
      refine drain h fun u hu => ?_
      cases hu
      simp [SameBlock, SameInputs, takeByte]
    case L5 =>
      split at h
      · cases h
      · cases h; simp [SameBlock, SameInputs, takeByte]
    all_goals (cases h; simp [SameBlock, SameInputs])
  · rename_i l hl
    cases l <;> simp only [readbytesLine] at h
    case drain => exact drain h store
    case L5 =>
      split at h
      · cases h
      · obtain ⟨u, hu, rfl⟩ := thenGoto_eq_ok.mp h
        simpa [SameBlock, SameInputs] using store u hu
    all_goals (cases h; simp [SameBlock, SameInputs])
  · rename_i l hl
    cases l <;> simp only [regwrrdLine] at h
    case drain => exact drain h store
    case L11 =>
      split at h
      · cases h
      · obtain ⟨u, hu, rfl⟩ := thenGoto_eq_ok.mp h
        simpa [SameBlock, SameInputs] using store u hu
    all_goals (cases h; simp [SameBlock, SameInputs])

/-- With no byte left to unload the loop of READBYTES only polls. -/
theorem receiveTrace_nil (ps : List Snapshot) : receiveTrace [] ps = ps.map .poll := by
  induction ps with
  | nil => rfl
  | cons p ps ih => simp [receiveTrace, ih]

/-- A line leaves an undisturbed run undisturbed. -/
theorem undisturbed_line {s t : State} (hu : Undisturbed s) (h : engineLine s = .ok t) : Undisturbed t := by
  obtain ⟨ho, hp, hot, hr, ht⟩ := hu
  obtain ⟨⟨-, -, -, h1⟩, -, h2, h3, h4, h5, -⟩ := engineLine_keeps h
  exact ⟨h1.trans ho, h2.trans hp, h3.trans hot, h4.trans hr, h5.trans ht⟩

/-- One line, then the rest of the run. -/
theorem run_from_line {s t : State} {P : State → Prop} (hu : Undisturbed s) (hb : s.eng.busy = true)
    (hq : s.eng.seq ≠ .idle) (h : engineLine s = .ok t)
    (hk : Undisturbed t → ∃ (k : Nat) (u : State), core.run k t = .next u ∧ P u) :
    ∃ (k : Nat) (u : State), core.run k s = .next u ∧ P u := by
  obtain ⟨k, u, hr, hp⟩ := hk (undisturbed_line hu h)
  exact ⟨k + 1, u, by rw [run_line hu hb hq h]; exact hr, hp⟩

/-- A run of `j` steps, then the rest. -/
theorem run_from_run {s t : State} {j : Nat} {P : State → Prop} (h : core.run j s = .next t)
    (hk : ∃ (k : Nat) (u : State), core.run k t = .next u ∧ P u) :
    ∃ (k : Nat) (u : State), core.run k s = .next u ∧ P u := by
  obtain ⟨k, u, hr, hp⟩ := hk
  exact ⟨j + k, u, run_add h hr, hp⟩

/-- The end of a run. -/
theorem run_ends {s : State} {P : State → Prop} (h : P s) : ∃ (k : Nat) (u : State), core.run k s = .next u ∧ P u :=
  ⟨0, s, rfl, h⟩

end Sys2Proof.Machine
end

