-- ==== Sys2Proof/Laws/Vrf.lean ====
section
/-! SUPPORT. What the VRF's operations can answer (R85, R86), said once. -/

namespace Sys2Proof.Machine

/-- VRF_STORE completes in one of three ways (R85): the address byte, a stored byte, a discarded byte. -/
theorem vrfStoreOp_cases {d : Byte} {s t : State} (h : vrfStoreOp d s = .ok t) :
    s.vrf.wbound = true ∧ s.vrf.dir ≠ .read ∧
    ((s.par.mode = .addressPrefixed ∧ s.vrf.isAddressByte = true ∧
        t = { s with vrf := { s.vrf with cursor := d.toNat, isAddressByte := false, dir := .write } }) ∨
     (¬ (s.par.mode = .addressPrefixed ∧ s.vrf.isAddressByte = true) ∧ s.vrf.cursor < s.vrf.wsize ∧
        s.vrf.wbase.toNat + s.vrf.cursor < 2 ^ s.par.addrW ∧
        t = { s with vrf := { s.vrf with cursor := s.vrf.cursor + 1, dir := .write },
                     mem := s.mem.write (s.vrf.wbase.toNat + s.vrf.cursor) d }) ∨
     (¬ (s.par.mode = .addressPrefixed ∧ s.vrf.isAddressByte = true) ∧ s.vrf.wsize ≤ s.vrf.cursor ∧
        t = { s with vrf := { s.vrf with dir := .write } })) := by
  rw [vrfStoreOp] at h
  split at h
  · cases h
  split at h
  · cases h
  refine ⟨by simpa using ‹¬ s.vrf.wbound = false›, ‹_›, ?_⟩
  split at h
  · rename_i hc
    cases h
    exact .inl ⟨hc.1, hc.2, rfl⟩
  split at h
  · split at h
    · rename_i u hu
      obtain ⟨ha, rfl⟩ := State.writeByte_eq_ok.mp hu
      cases h
      exact .inr (.inl ⟨‹_›, ‹_›, ha, rfl⟩)
    · cases h
  · cases h
    exact .inr (.inr ⟨‹_›, by omega, rfl⟩)

/-- VRF_REQUEST completes in one of two ways (R86): a byte of the buffer, or the sentinel. -/
theorem vrfRequestOp_cases {s t : State} {v : Byte} (h : vrfRequestOp s = .ok (v, t)) :
    s.vrf.rbound = true ∧
    ((s.vrf.cursor < s.vrf.rsize ∧ s.vrf.rbase.toNat + s.vrf.cursor < 2 ^ s.par.addrW ∧
        v = s.mem.read (s.vrf.rbase.toNat + s.vrf.cursor) ∧
        t = { s with vrf := { s.vrf with cursor := s.vrf.cursor + 1, hadRead := true, dir := .read } }) ∨
     (s.vrf.rsize ≤ s.vrf.cursor ∧ v = 0x00#8 ∧
        t = { s with vrf := { s.vrf with cursor := s.vrf.rsize + 1, hadRead := true, dir := .read } })) := by
  rw [vrfRequestOp] at h
  split at h
  · cases h
  refine ⟨by simpa using ‹¬ s.vrf.rbound = false›, ?_⟩
  split at h
  · split at h
    · rename_i w hw
      obtain ⟨ha, rfl⟩ := State.readByte_eq_ok.mp hw
      cases h
      exact .inl ⟨‹_›, ha, rfl, rfl⟩
    · cases h
  · cases h
    exact .inr ⟨by omega, rfl, rfl⟩

/-- VRF_STORE's faults (R85). -/
theorem vrfStoreOp_error {d : Byte} {s : State} {f : Fault} (h : vrfStoreOp d s = .error f) :
    (s.vrf.wbound = false ∧ f = .bufferUnbound .write) ∨
    (s.vrf.wbound = true ∧ s.vrf.dir = .read ∧ f = .mixedDirection) ∨
    (s.vrf.wbound = true ∧ s.vrf.cursor < s.vrf.wsize ∧
      2 ^ s.par.addrW ≤ s.vrf.wbase.toNat + s.vrf.cursor ∧
      f = .noSuchAddress (s.vrf.wbase.toNat + s.vrf.cursor)) := by
  rw [vrfStoreOp] at h
  split at h
  · cases h
    exact .inl ⟨‹_›, rfl⟩
  have hb : s.vrf.wbound = true := by simpa using ‹¬ s.vrf.wbound = false›
  split at h
  · cases h
    exact .inr (.inl ⟨hb, ‹_›, rfl⟩)
  split at h
  · cases h
  split at h
  · split at h
    · cases h
    · rename_i g hg
      obtain ⟨ha, rfl⟩ := State.writeByte_eq_error.mp hg
      cases h
      exact .inr (.inr ⟨hb, ‹_›, ha, rfl⟩)
  · cases h

/-- VRF_REQUEST's faults (R86). -/
theorem vrfRequestOp_error {s : State} {f : Fault} (h : vrfRequestOp s = .error f) :
    (s.vrf.rbound = false ∧ f = .bufferUnbound .read) ∨
    (s.vrf.rbound = true ∧ s.vrf.cursor < s.vrf.rsize ∧
      2 ^ s.par.addrW ≤ s.vrf.rbase.toNat + s.vrf.cursor ∧
      f = .noSuchAddress (s.vrf.rbase.toNat + s.vrf.cursor)) := by
  rw [vrfRequestOp] at h
  split at h
  · cases h
    exact .inl ⟨‹_›, rfl⟩
  split at h
  · split at h
    · cases h
    · rename_i g hg
      obtain ⟨ha, rfl⟩ := State.readByte_eq_error.mp hg
      cases h
      exact .inr ⟨by simpa using ‹¬ s.vrf.rbound = false›, ‹_›, ha, rfl⟩
  · cases h

theorem Vrf.writeCapacity_of_bound {v : Vrf} (h : v.wbound = true) : v.writeCapacity = v.wsize := by
  rw [Vrf.writeCapacity, if_pos h]

theorem Vrf.readCapacity_of_bound {v : Vrf} (h : v.rbound = true) : v.readCapacity = v.rsize := by
  rw [Vrf.readCapacity, if_pos h]

end Sys2Proof.Machine
end

