-- ==== Sys2Proof/Laws/Exec.lean ====
section
/-! SUPPORT. What the controller commands' entry can answer (R62), and what no instruction changes. -/

namespace Sys2Proof.Machine

/-- The entry completes exactly when its checks pass (R62). -/
theorem enter_eq_next {op : CtrlOp} {a7 : BusAddr} {d8 : Byte} {ptr n : Half} {first : SeqPos} {s t : State} :
    enter op a7 d8 ptr n first s = .next t ↔
      s.par.role = .controller ∧ s.eng.busy = false ∧ operandRefusal s.par op ptr n = none ∧
        t = s.entered op a7 d8 ptr n first := by
  rw [enter]
  split
  · rename_i hr
    simp [hr]
  · rename_i hr
    split
    · rename_i hb
      simp [hb]
    · rename_i hb
      have hr' : s.par.role = .controller := Classical.not_not.mp hr
      split
      · rename_i ho
        simp [ho]
      · rename_i ho
        simp [ho, hr', hb, eq_comm]

/-- The operand checks pass exactly on a payload in range, or where there is none (R44, R62). -/
theorem operandRefusal_eq_none {p : Params} {op : CtrlOp} {ptr n : Half} :
    operandRefusal p op ptr n = none ↔
      (hasPayload op = true → 1 ≤ n.toNat ∧ n.toNat < 2 ^ p.cntW ∧ ptr.toNat + n.toNat ≤ 2 ^ p.addrW) := by
  have hn : n = 0#16 ↔ n.toNat = 0 := by
    constructor
    · rintro rfl
      rfl
    · intro h
      exact BitVec.eq_of_toNat_eq (by simpa using h)
  rw [operandRefusal]
  split
  · rename_i hp
    simp only [hp, forall_const]
    split
    · rename_i h
      have := hn.mp h
      simp only [reduceCtorEq, false_iff]
      omega
    · rename_i h
      have := (not_congr hn).mp h
      split
      · simp only [reduceCtorEq, false_iff]
        omega
      · split
        · simp only [reduceCtorEq, false_iff]
          omega
        · simp only [true_iff]
          omega
  · simp_all

/-- No instruction uses up an input, changes a parameter of the run, or records a stop. -/
theorem exec_keeps {i : Instr} {s t : State} (h : exec i s = .next t) :
    SameInputs s t ∧ t.par = s.par ∧ t.outcome = s.outcome := by
  have en : ∀ {op a7 d8 p n q}, enter op a7 d8 p n q s = .next t →
      SameInputs s t ∧ t.par = s.par ∧ t.outcome = s.outcome := by
    intro op a7 d8 p n q h
    obtain ⟨-, -, -, rfl⟩ := enter_eq_next.mp h
    simp [SameInputs]
  have st : ∀ {d u}, vrfStoreOp d s = .ok u → u.env = s.env ∧ u.par = s.par ∧ u.outcome = s.outcome := by
    intro d u h
    obtain ⟨-, -, ⟨a, b, rfl⟩ | ⟨-, h1, -, rfl⟩ | ⟨-, -, rfl⟩⟩ := vrfStoreOp_cases h <;> simp
  have rq : ∀ {v u}, vrfRequestOp s = .ok (v, u) → u.env = s.env ∧ u.par = s.par ∧ u.outcome = s.outcome := by
    intro d u h
    obtain ⟨-, ⟨a1, a2, rfl, rfl⟩ | ⟨a1, rfl, rfl⟩⟩ := vrfRequestOp_cases h <;> simp
  cases i <;> simp only [exec] at h
  case setwbuf =>
    rw [execSetwbuf] at h
    split at h
    · cases h
      simp [SameInputs]
    · cases h
  case setrbuf =>
    rw [execSetrbuf] at h
    split at h
    · cases h
      simp [SameInputs]
    · cases h
  case regw =>
    cases h
    simp [SameInputs]
  case regr =>
    cases h
    simp [SameInputs]
  case regs =>
    cases h
    simp [SameInputs]
  case vrfStop =>
    cases h
    simp [SameInputs, vrfStopOp]
  case vrfStore =>
    have := st (ofExcept_eq_next.mp h)
    simp [SameInputs, this]
  case vrfRequest =>
    rw [execVrfRequest] at h
    split at h <;> cases h
    rename_i h1
    have := rq h1
    simp [SameInputs, this]
  case evWritten =>
    rw [execEvWritten] at h
    split at h
    · cases h
    split at h
    · cases h
    · split at h <;> cases h
      rename_i h1
      have := st h1
      simp [SameInputs, this, State.delivered]
    · cases h
      simp [SameInputs, State.delivered]
  case evRequested =>
    rw [execEvRequested] at h
    split at h
    · cases h
    split at h
    · cases h
    · split at h <;> cases h
      rename_i h1
      have := rq h1
      simp [SameInputs, this, State.delivered, State.answer]
    · cases h
      simp [SameInputs, State.delivered, State.answer]
  case evStopped =>
    rw [execEvStopped] at h
    split at h
    · cases h
    split at h
    · cases h
    · cases h
      simp [SameInputs, State.delivered, vrfStopOp]
    · cases h
      simp [SameInputs, State.delivered]
  all_goals exact en h

end Sys2Proof.Machine
end

