-- ==== Sys2Proof/Laws/PerInstr.lean ====
section
/-! SUPPORT. The family RowMatches: the word of a well-formed instruction has the row of its mnemonic, satisfies the
row's match and mask (R51, R53), and the row builds the instruction back from it. -/

namespace Sys2Proof.Laws.RowMatches

/-- The encoded word finds a row, passes its mask check, and builds the instruction. -/
def Statement (i : Instr) : Prop :=
  i.wellFormed = true →
    ∃ row, rowOf (encode i) = some row ∧ encode i &&& row.mask = row.mtch ∧ row.build (encode i) = i ∧
      (row.format = .CH → fieldHsel (encode i) = 0b01#2 ∧ fieldHid (encode i) = 0#6 ∨ fieldHsel (encode i) = 0b10#2)

theorem setwbuf (ptr n : Half) : Statement (.setwbuf ptr n) := by
  intro _
  refine ⟨_, (rowOf_assembleWord _ _ _ _ _).trans rfl, ?_, by simp [encode], nofun⟩
  ext i hi
  simp only [encode, assembleWord]
  interval_cases i <;> simp

theorem setrbuf (ptr n : Half) : Statement (.setrbuf ptr n) := by
  intro _
  refine ⟨_, (rowOf_assembleWord _ _ _ _ _).trans rfl, ?_, by simp [encode], nofun⟩
  ext i hi
  simp only [encode, assembleWord]
  interval_cases i <;> simp

theorem handler_checks {hsel : HSel} {hid : BitVec 6} (h : hsel.okWith hid = true) (opc : BitVec 8) :
    fieldHsel (assembleWord opc 0#7 (handlerByte hsel hid) 0#16 0#16) = 0b01#2 ∧
        fieldHid (assembleWord opc 0#7 (handlerByte hsel hid) 0#16 0#16) = 0#6 ∨
      fieldHsel (assembleWord opc 0#7 (handlerByte hsel hid) 0#16 0#16) = 0b10#2 := by
  cases hsel <;> simp_all [HSel.okWith, hselBits]

theorem regw (hsel : HSel) (hid : BitVec 6) : Statement (.regw hsel hid) := by
  intro h
  refine ⟨_, (rowOf_assembleWord _ _ _ _ _).trans rfl, ?_, by simp [encode], fun _ => handler_checks h _⟩
  ext i hi
  simp only [encode, assembleWord]
  interval_cases i <;> simp

theorem regr (hsel : HSel) (hid : BitVec 6) : Statement (.regr hsel hid) := by
  intro h
  refine ⟨_, (rowOf_assembleWord _ _ _ _ _).trans rfl, ?_, by simp [encode], fun _ => handler_checks h _⟩
  ext i hi
  simp only [encode, assembleWord]
  interval_cases i <;> simp

theorem regs (hsel : HSel) (hid : BitVec 6) : Statement (.regs hsel hid) := by
  intro h
  refine ⟨_, (rowOf_assembleWord _ _ _ _ _).trans rfl, ?_, by simp [encode], fun _ => handler_checks h _⟩
  ext i hi
  simp only [encode, assembleWord]
  interval_cases i <;> simp

theorem sendbyte (a7 : BusAddr) (d8 : Byte) : Statement (.sendbyte a7 d8) := by
  intro _
  refine ⟨_, (rowOf_assembleWord _ _ _ _ _).trans rfl, ?_, by simp [encode], nofun⟩
  ext i hi
  simp only [encode, assembleWord]
  interval_cases i <;> simp

theorem sendbytes (a7 : BusAddr) (ptr n : Half) : Statement (.sendbytes a7 ptr n) := by
  intro _
  refine ⟨_, (rowOf_assembleWord _ _ _ _ _).trans rfl, ?_, by simp [encode], nofun⟩
  ext i hi
  simp only [encode, assembleWord]
  interval_cases i <;> simp

theorem readbyte (a7 : BusAddr) : Statement (.readbyte a7) := by
  intro _
  refine ⟨_, (rowOf_assembleWord _ _ _ _ _).trans rfl, ?_, by simp [encode], nofun⟩
  ext i hi
  simp only [encode, assembleWord]
  interval_cases i <;> simp

theorem readbytes (a7 : BusAddr) (ptr n : Half) : Statement (.readbytes a7 ptr n) := by
  intro _
  refine ⟨_, (rowOf_assembleWord _ _ _ _ _).trans rfl, ?_, by simp [encode], nofun⟩
  ext i hi
  simp only [encode, assembleWord]
  interval_cases i <;> simp

theorem regwrrd (a7 : BusAddr) (d8 : Byte) (ptr n : Half) : Statement (.regwrrd a7 d8 ptr n) := by
  intro _
  refine ⟨_, (rowOf_assembleWord _ _ _ _ _).trans rfl, ?_, by simp [encode], nofun⟩
  ext i hi
  simp only [encode, assembleWord]
  interval_cases i <;> simp

theorem evWritten (d8 : Byte) : Statement (.evWritten d8) := by
  intro _
  refine ⟨_, (rowOf_assembleWord _ _ _ _ _).trans rfl, ?_, by simp [encode], nofun⟩
  ext i hi
  simp only [encode, assembleWord]
  interval_cases i <;> simp

theorem evRequested : Statement .evRequested := by
  intro _
  refine ⟨_, (rowOf_assembleWord _ _ _ _ _).trans rfl, ?_, rfl, nofun⟩
  decide

theorem evStopped : Statement .evStopped := by
  intro _
  refine ⟨_, (rowOf_assembleWord _ _ _ _ _).trans rfl, ?_, rfl, nofun⟩
  decide

theorem vrfStore (d8 : Byte) : Statement (.vrfStore d8) := by
  intro _
  refine ⟨_, (rowOf_assembleWord _ _ _ _ _).trans rfl, ?_, by simp [encode], nofun⟩
  ext i hi
  simp only [encode, assembleWord]
  interval_cases i <;> simp

theorem vrfRequest : Statement .vrfRequest := by
  intro _
  refine ⟨_, (rowOf_assembleWord _ _ _ _ _).trans rfl, ?_, rfl, nofun⟩
  decide

theorem vrfStop : Statement .vrfStop := by
  intro _
  refine ⟨_, (rowOf_assembleWord _ _ _ _ _).trans rfl, ?_, rfl, nofun⟩
  decide

end Sys2Proof.Laws.RowMatches
end

