-- ==== Sys2Proof/Machine/Assembler.lean ====
section
/-! DEFINITION. The assembler's text form (R58) and its pseudo-instructions (R59): lines of text to command words. The
hardware does not run it; it says which words a written program is. What R58 leaves open about it is log 26. -/

namespace Sys2Proof

/-- The pieces of a line. -/
inductive Token where
  | word (cs : List Char)
  | comma
  | equals
  | lparen
  | rparen
deriving DecidableEq, Repr

/-- Why a line has no meaning. -/
inductive AsmError where
  /-- The line starts with no mnemonic of R58 or R59, or its operands have not the form R58 gives it. -/
  | badLine
  /-- An operand is neither a number nor a constant's name. -/
  | badOperand
  /-- An operand's value does not fit its field (R50). -/
  | tooLarge
deriving DecidableEq, Repr

/-- A word read so far, last character first, put before the rest. -/
def flushWord (cur : List Char) (ts : List Token) : List Token :=
  match cur with
  | [] => ts
  | c :: cs => .word (c :: cs).reverse :: ts

/-- The tokens of a line; `;` starts a comment (R58). -/
def tokens : List Char → List Char → List Token
  | [], cur => flushWord cur []
  | c :: cs, cur =>
    if c = ';' then flushWord cur []
    else if c = ' ' ∨ c = '\t' then flushWord cur (tokens cs [])
    else if c = ',' then flushWord cur (.comma :: tokens cs [])
    else if c = '=' then flushWord cur (.equals :: tokens cs [])
    else if c = '(' then flushWord cur (.lparen :: tokens cs [])
    else if c = ')' then flushWord cur (.rparen :: tokens cs [])
    else tokens cs (c :: cur)

/-- The value of a digit below `base`. -/
def digitOf (base : Nat) (c : Char) : Option Nat :=
  let v :=
    if '0' ≤ c ∧ c ≤ '9' then c.toNat - 48
    else if 'a' ≤ c ∧ c ≤ 'f' then c.toNat - 87
    else if 'A' ≤ c ∧ c ≤ 'F' then c.toNat - 55
    else 16
  if v < base then some v else none

/-- Digits in a base, `acc` read so far. -/
def digitsOf (base : Nat) : List Char → Nat → Option Nat
  | [], acc => some acc
  | c :: cs, acc =>
    match digitOf base c with
    | some v => digitsOf base cs (acc * base + v)
    | none => none

/-- A number: decimal, or `0x` hexadecimal (R58). -/
def numberOf : List Char → Option Nat
  | '0' :: 'x' :: d :: ds => digitsOf 16 (d :: ds) 0
  | d :: ds => digitsOf 10 (d :: ds) 0
  | [] => none

/-- The constants named so far, the latest first (R58). -/
abbrev Constants := List (List Char × Nat)

/-- The value of an operand: a number, or the constant of that name. -/
def operandValue (ks : Constants) (cs : List Char) : Option Nat :=
  match numberOf cs with
  | some v => some v
  | none => (ks.find? (fun k => k.1 == cs)).map (fun k => k.2)

/-- An operand that goes into a field of `w` bits (R50). -/
def fieldOperand (w : Nat) (ks : Constants) (cs : List Char) : Except AsmError (BitVec w) :=
  match operandValue ks cs with
  | none => .error .badOperand
  | some v => if v < 2 ^ w then .ok (BitVec.ofNat w v) else .error .tooLarge

/-- The operands between commas. -/
def commaList : List Token → Option (List (List Char))
  | [] => some []
  | [.word a] => some [a]
  | .word a :: .comma :: t :: ts => (commaList (t :: ts)).map (a :: ·)
  | _ => none

/-- A handler operand, `VRF` or `CUSTOM(h)` (R54, R58). -/
def handlerOperand (ks : Constants) (f : HSel → BitVec 6 → Instr) (ts : List Token) : Except AsmError (List Instr) :=
  match ts with
  | [.word a] => if a = "VRF".toList then .ok [f .vrf 0#6] else .error .badLine
  | [.word a, .lparen, .word h, .rparen] =>
    if a = "CUSTOM".toList then
      match fieldOperand 6 ks h with
      | .ok v => .ok [f .custom v]
      | .error e => .error e
    else .error .badLine
  | _ => .error .badLine

/-- Two operands in fields of `v` and `w` bits. -/
def twoOperands (v w : Nat) (ks : Constants) (a b : List Char) (f : BitVec v → BitVec w → List Instr) :
    Except AsmError (List Instr) :=
  match fieldOperand v ks a with
  | .error e => .error e
  | .ok x =>
    match fieldOperand w ks b with
    | .error e => .error e
    | .ok y => .ok (f x y)

/-- One operand in a field of `w` bits. -/
def oneOperand (w : Nat) (ks : Constants) (a : List Char) (f : BitVec w → List Instr) : Except AsmError (List Instr) :=
  match fieldOperand w ks a with
  | .error e => .error e
  | .ok x => .ok (f x)

/-- The operations and pseudo-instructions whose operands are numbers, by mnemonic (R58, R59). -/
def numericLine (ks : Constants) (m : List Char) (args : List (List Char)) : Except AsmError (List Instr) :=
  match args with
  | [] =>
    if m = "EV_REQUESTED".toList then .ok [.evRequested]
    else if m = "EV_STOPPED".toList then .ok [.evStopped]
    else if m = "VRF_REQUEST".toList then .ok [.vrfRequest]
    else if m = "VRF_STOP".toList then .ok [.vrfStop]
    else if m = "REGVRF".toList then .ok Pseudo.regvrf.expand
    else .error .badLine
  | [a] =>
    if m = "READBYTE".toList then oneOperand 7 ks a (fun x => [.readbyte x])
    else if m = "EV_WRITTEN".toList then oneOperand 8 ks a (fun x => [.evWritten x])
    else if m = "VRF_STORE".toList then oneOperand 8 ks a (fun x => [.vrfStore x])
    else .error .badLine
  | [a, b] =>
    if m = "SETWBUF".toList then twoOperands 16 16 ks a b (fun p n => [.setwbuf p n])
    else if m = "SETRBUF".toList then twoOperands 16 16 ks a b (fun p n => [.setrbuf p n])
    else if m = "SETBUF".toList then twoOperands 16 16 ks a b (fun p n => (Pseudo.setbuf p n).expand)
    else if m = "SENDBYTE".toList then twoOperands 7 8 ks a b (fun x d => [.sendbyte x d])
    else .error .badLine
  | [a, b, c] =>
    match fieldOperand 7 ks a with
    | .error e => .error e
    | .ok x =>
      if m = "SENDBYTES".toList then twoOperands 16 16 ks b c (fun p n => [.sendbytes x p n])
      else if m = "READBYTES".toList then twoOperands 16 16 ks b c (fun p n => [.readbytes x p n])
      else .error .badLine
  | [a, b, c, d] =>
    match fieldOperand 7 ks a with
    | .error e => .error e
    | .ok x =>
      match fieldOperand 8 ks b with
      | .error e => .error e
      | .ok y =>
        if m = "REGWRRD".toList then twoOperands 16 16 ks c d (fun p n => [.regwrrd x y p n]) else .error .badLine
  | _ => .error .badLine

/-- One line (R58): the constants after it, and the operations it stands for. -/
def assembleLine (ks : Constants) (line : List Char) : Except AsmError (Constants × List Instr) :=
  let withOps (r : Except AsmError (List Instr)) : Except AsmError (Constants × List Instr) :=
    match r with
    | .ok is => .ok (ks, is)
    | .error e => .error e
  match tokens line [] with
  | [] => .ok (ks, [])
  | [.word name, .equals, .word value] =>
    match operandValue ks value with
    | some v => .ok ((name, v) :: ks, [])
    | none => .error .badOperand
  | .word m :: ts =>
    if m = "REGW".toList then withOps (handlerOperand ks .regw ts)
    else if m = "REGR".toList then withOps (handlerOperand ks .regr ts)
    else if m = "REGS".toList then withOps (handlerOperand ks .regs ts)
    else
      match commaList ts with
      | some args => withOps (numericLine ks m args)
      | none => .error .badLine
  | _ => .error .badLine

/-- A program's lines in order: its command words (R50, R58). -/
def assembleFrom (ks : Constants) : List (List Char) → Except AsmError (List CmdWord)
  | [] => .ok []
  | l :: ls =>
    match assembleLine ks l with
    | .error e => .error e
    | .ok (ks', is) =>
      match assembleFrom ks' ls with
      | .error e => .error e
      | .ok ws => .ok (is.map encode ++ ws)

/-- A program of R58: one string for each line. -/
def assemble (lines : List String) : Except AsmError (List CmdWord) := assembleFrom [] (lines.map String.toList)

end Sys2Proof
end

