-- ==== Sys2Proof/Tests/Slice0.lean ====
section
/-! SUPPORT. The model's own tests. Expected values are those of spec/95_test_vectors.md (the id stands in the
comment) or of the rule named. The witnesses at the end meet the hypotheses of each statement of Obligations.lean. -/

namespace Sys2Proof.Tests

open Machine

/-! ### Small states -/

/-- A field of the next state, or `d` where there is none. -/
def after {α : Type} (o : Host.Outcome State Fault Refusal) (f : State → α) (d : α) : α :=
  match o with
  | .next t => f t
  | .fault _ => d
  | .refused _ => d

/-- A field of the state after an engine line, or `d` after a fault. -/
def afterLine {α : Type} (r : Except Fault State) (f : State → α) (d : α) : α :=
  match r with
  | .ok t => f t
  | .error _ => d

/-- `(cursor, isAddressByte, hadRead)`. -/
def tuple (t : State) : Nat × Bool × Bool := (t.vrf.cursor, t.vrf.isAddressByte, t.vrf.hadRead)

/-- The vectors' target: a shared buffer of 16 bytes at 0x0100, the VRF in every slot. -/
def sharedVrf : Vrf :=
  { Vrf.reset with
    wbase := 0x0100#16, wsize := 16, wbound := true, rbase := 0x0100#16, rsize := 16, rbound := true }

def tgtPar : Params := { Config.reference with role := .target }

def tgt : State := { State.resetWith tgtPar with vrf := sharedVrf, slots := ⟨.vrf, .vrf, .vrf⟩ }

/-- The target with a byte written into its buffer and the cursor at 5. -/
def tgt5 : State := { tgt with mem := [(0x0105, 0xAA#8)], vrf := { sharedVrf with cursor := 5 } }

/-- The vectors' controller, with a port script. -/
def ctl (polls : List Snapshot) (rxbs : List Byte) (cnts : List Half) : State :=
  { State.reset with env := { Env.quiet with polls := polls, rxbs := rxbs, cnts := cnts } }

/-- A controller at a line of a running command. -/
def atLine (q : SeqPos) (op : CtrlOp) (n : Half) (i : Nat) (polls : List Snapshot) (rxbs : List Byte) : State :=
  { ctl polls rxbs [] with
    eng := ⟨true, q, { workAtReset with op := op, a7 := 0x50#7, ptr := 0x0200#16, n := n, i := i }⟩ }

/-! ### Well-formedness: its one check, at each of the three instructions that have it -/

theorem test_smoke_regw_vrf_with_id : Instr.wellFormed (.regw .vrf 1#6) = false := by decide
theorem test_smoke_regr_vrf_with_id : Instr.wellFormed (.regr .vrf 63#6) = false := by decide
theorem test_smoke_regs_vrf_with_id : Instr.wellFormed (.regs .vrf 32#6) = false := by decide
theorem test_smoke_custom_any_id : Instr.wellFormed (.regw .custom 63#6) = true := by decide

/-! ### Decoding: one word for every constructor -/

/-- CFG-1. -/
theorem test_decode_setwbuf : decode 0x0100000100001000#64 = .ok (.setwbuf 0x0100#16 16#16) := by decide
/-- CFG-2. -/
theorem test_decode_setrbuf : decode 0x0200000100001000#64 = .ok (.setrbuf 0x0100#16 16#16) := by decide
/-- CFG-6. -/
theorem test_decode_regw : decode 0x0300400000000000#64 = .ok (.regw .vrf 0#6) := by decide
/-- CFG-7. -/
theorem test_decode_regr : decode 0x0400830000000000#64 = .ok (.regr .custom 3#6) := by decide
/-- CFG-8. -/
theorem test_decode_regs : decode 0x0500BF0000000000#64 = .ok (.regs .custom 63#6) := by decide
/-- ENG-1. -/
theorem test_decode_sendbyte : decode 0x103C7E0000000000#64 = .ok (.sendbyte 0x3C#7 0x7E#8) := by decide
/-- ENG-2. -/
theorem test_decode_sendbytes : decode 0x1150000200000300#64 = .ok (.sendbytes 0x50#7 0x0200#16 3#16) := by decide
/-- ENG-5. -/
theorem test_decode_readbyte : decode 0x1250000000000000#64 = .ok (.readbyte 0x50#7) := by decide
/-- ENG-8. -/
theorem test_decode_readbytes : decode 0x1350000300000200#64 = .ok (.readbytes 0x50#7 0x0300#16 2#16) := by decide
/-- ENG-11. -/
theorem test_decode_regwrrd :
    decode 0x1450100400000400#64 = .ok (.regwrrd 0x50#7 0x10#8 0x0400#16 4#16) := by decide
/-- DSP-1. -/
theorem test_decode_evWritten : decode 0x2000050000000000#64 = .ok (.evWritten 0x05#8) := by decide
/-- DSP-2. -/
theorem test_decode_evRequested : decode 0x2100000000000000#64 = .ok .evRequested := by decide
/-- DSP-3. -/
theorem test_decode_evStopped : decode 0x2200000000000000#64 = .ok .evStopped := by decide
/-- VRF-14. -/
theorem test_decode_vrfStore : decode 0x3000050000000000#64 = .ok (.vrfStore 0x05#8) := by decide
/-- VRF-15. -/
theorem test_decode_vrfRequest : decode 0x3100000000000000#64 = .ok .vrfRequest := by decide
/-- VRF-16. -/
theorem test_decode_vrfStop : decode 0x3200000000000000#64 = .ok .vrfStop := by decide

/-- DEC-1, DEC-2. -/
theorem test_decode_reserved_opcode :
    decode 0x0600000000000000#64 = .error .reservedOpcode ∧ decode 0xFF00000000000000#64 = .error .reservedOpcode := by
  decide
/-- DEC-3, DEC-4, DEC-5, DEC-9. -/
theorem test_decode_reserved_field :
    decode 0x1150000200000301#64 = .error .reservedField ∧ decode 0x11D0000200000300#64 = .error .reservedField ∧
    decode 0x1250010000000000#64 = .error .reservedField ∧ decode 0x2100000000000001#64 = .error .reservedField := by
  decide
/-- DEC-6, DEC-7, DEC-8. -/
theorem test_decode_handler_select :
    decode 0x0300000000000000#64 = .error .reservedHandlerSelect ∧
    decode 0x0300C00000000000#64 = .error .reservedHandlerSelect ∧
    decode 0x0300410000000000#64 = .error .reservedField := by
  decide
/-- The row numbering of spec/opcode_table.json is that of the command word. -/
theorem test_decode_table_word : decodeTableWord 64 0x1150000200000300 = some (.sendbytes 0x50#7 0x0200#16 3#16) := by
  decide

/-! ### The assembler (R58, R59) -/

/-- The command words of a program, or none. -/
def wordsOf (lines : List String) : List CmdWord :=
  match assemble lines with
  | .ok ws => ws
  | .error _ => []

/-- R58's example, with a constant and a comment. -/
theorem test_assemble_sendbytes :
    wordsOf ["buf = 0x0200 ; payload", "SENDBYTES 0x50, buf, 3"] = [0x1150000200000300#64] := by decide
/-- P1, lines 1 to 5 written as R59's pseudo-instructions. -/
theorem test_assemble_pseudo :
    wordsOf ["SETBUF 0x0100, 16", "REGVRF"] =
      [0x0100000100001000#64, 0x0200000100001000#64, 0x0300400000000000#64, 0x0400400000000000#64,
        0x0500400000000000#64] := by decide

/-! ### Configuration -/

/-- CFG-3: a buffer that ends at the top of memory. -/
theorem test_setwbuf_top : after (exec (.setwbuf 0xFFF0#16 16#16) State.reset) (fun t => t.vrf.wsize) 0 = 16 := by
  decide
/-- CFG-4. -/
theorem test_setwbuf_past_top : exec (.setwbuf 0xFFF8#16 16#16) State.reset = .refused .bufferOutOfRange := rfl
/-- CFG-2. -/
theorem test_setrbuf :
    after (exec (.setrbuf 0x0100#16 16#16) State.reset) (fun t => (t.vrf.rbase, t.vrf.rsize, t.vrf.rbound)) (0, 0, false) =
      (0x0100#16, 16, true) := by decide
/-- CFG-7. -/
theorem test_regr_replaces : after (exec (.regr .custom 3#6) tgt) (fun t => t.slots.read) .empty = .custom 3#6 := by
  decide
/-- CFG-6. -/
theorem test_regw_vrf : after (exec (.regw .vrf 0#6) State.reset) (fun t => t.slots) tgt.slots = ⟨.vrf, .empty, .empty⟩ := by
  decide
/-- CFG-8. -/
theorem test_regs_custom :
    after (exec (.regs .custom 63#6) State.reset) (fun t => t.slots) tgt.slots = ⟨.empty, .empty, .custom 63#6⟩ := by
  decide

/-! ### The VRF -/

/-- VRF-1, first byte: the pointer. -/
theorem test_vrfStore_pointer : after (exec (.vrfStore 0x05#8) tgt) tuple (0, true, true) = (5, false, false) := by decide
/-- VRF-6: a data byte past the capacity is dropped, and the cursor stays. -/
theorem test_vrfStore_discards :
    after (exec (.vrfStore 0x11#8) { tgt with vrf := { sharedVrf with cursor := 200, isAddressByte := false } })
      (fun t => (t.vrf.cursor, t.mem)) (0, [(0, 0)]) = (200, []) := by decide
/-- VRF-5, VRF-7: the sentinel, and the cursor parked from above. -/
theorem test_vrfRequest_parks :
    after (exec .vrfRequest { tgt with vrf := { sharedVrf with cursor := 200 } })
      (fun t => (t.vrf.cursor, t.hist.results)) (0, []) = (17, [.vrfByte 0x00#8]) := by decide
/-- VRF-2. -/
theorem test_vrfRequest_byte :
    after (exec .vrfRequest tgt5) (fun t => (tuple t, t.hist.results)) ((0, true, true), []) =
      ((6, true, true), [.vrfByte 0xAA#8]) := by decide
/-- DSP-3. -/
theorem test_vrfStop_corrects :
    after (exec .vrfStop { tgt with vrf := { sharedVrf with cursor := 8, hadRead := true, dir := .read } }) tuple
      (0, true, true) = (7, true, false) := by decide
/-- VRF-13: a flat-stream stop. -/
theorem test_vrfStop_flat :
    after (exec .vrfStop { tgt with par := { tgtPar with mode := .flatStream }, vrf := { sharedVrf with cursor := 3 } })
      tuple (9, true, true) = (0, true, false) := by decide

/-! ### Event dispatch -/

/-- DSP-7. -/
theorem test_evWritten_custom :
    after (exec (.evWritten 0x77#8) { tgt with slots := ⟨.custom 1#6, .vrf, .vrf⟩ }) (fun t => (t.vrf, t.mem))
      (Vrf.reset, [(0, 0)]) = (sharedVrf, []) := by decide
/-- VRF-12. -/
theorem test_evWritten_mixed :
    exec (.evWritten 0x01#8) { tgt with vrf := { sharedVrf with cursor := 1, hadRead := true, dir := .read } } =
      .fault .mixedDirection := rfl
/-- DSP-2. -/
theorem test_evRequested_loads :
    after (exec .evRequested tgt5) (fun t => (t.port.txb, t.vrf.cursor, t.hist.txLoads)) (0, 0, []) =
      (0xAA#8, 6, [0xAA#8]) := by decide
/-- DSP-4. -/
theorem test_evRequested_no_handler :
    exec .evRequested { tgt with slots := ⟨.empty, .empty, .empty⟩ } = .fault (.noHandler .requested) := rfl
/-- DSP-3: STOPF is cleared. -/
theorem test_evStopped_clears :
    after (exec .evStopped { tgt with port := { portAtReset with stopf := true } }) (fun t => t.port.stopf) true = false := by
  decide
/-- DSP-8. -/
theorem test_evStopped_role : exec .evStopped State.reset = .refused .roleMismatch := rfl

/-! ### The controller commands -/

/-- R62: the entry of a command with an implicit length. -/
theorem test_sendbyte_enters :
    after (exec (.sendbyte 0x3C#7 0x7E#8) State.reset)
      (fun t => (t.eng.busy, t.eng.seq, t.eng.work.n, t.eng.work.d8)) (false, .idle, 0, 0) =
      (true, .sendbyte .L1, 1#16, 0x7E#8) := by decide
/-- ENG-19. -/
theorem test_sendbyte_concurrent :
    exec (.sendbyte 0x50#7 0x10#8) (atLine (.sendbyte .L5) .sendbyte 1#16 1 [] []) = .fault .concurrentCall := rfl
/-- DEC-10, DEC-11, DEC-12. -/
theorem test_sendbytes_refusals :
    exec (.sendbytes 0x50#7 0x0200#16 0#16) State.reset = .refused .zeroLength ∧
    exec (.sendbytes 0x50#7 0x0200#16 256#16) State.reset = .refused .lengthTooLarge ∧
    exec (.sendbytes 0x50#7 0xFFFE#16 3#16) State.reset = .refused .bufferOutOfRange := ⟨rfl, rfl, rfl⟩
/-- ENG-2, the second load: byte 1 of the payload, then the poll again. -/
theorem test_sendbytes_loads :
    afterLine (engineLine { atLine (.sendbytes .L6) .sendbytes 3#16 1 [] [] with mem := [(0x0201, 0x22#8)] })
      (fun t => (t.port.txb, t.eng.work.i, t.eng.seq)) (0, 0, .idle) = (0x22#8, 2, .sendbytes .L5) := by decide
/-- ENG-5: the address byte with the read bit set. -/
theorem test_readbyte_address :
    afterLine (engineLine (atLine (.readbyte .L1) .readbyte 1#16 0 [] [])) (fun t => t.hist.trace) [] =
      [.writeAddr 0xA1#8] := by decide
/-- ENG-5: the byte is taken. -/
theorem test_readbyte_takes :
    afterLine (engineLine (atLine (.readbyte .L5) .readbyte 1#16 0 [] [0x42#8])) (fun t => (t.eng.work.rbyte, t.eng.seq))
      (0, .idle) = (0x42#8, .readbyte .L4) := by decide
/-- ENG-8: the byte is stored. -/
theorem test_readbytes_stores :
    afterLine (engineLine (atLine (.readbytes .L5) .readbytes 2#16 1 [] [0x9B#8])) (fun t => (t.mem, t.eng.work.i)) ([], 0) =
      ([(0x0201, 0x9B#8)], 2) := by decide
/-- ENG-10. -/
theorem test_readbytes_overrun :
    engineLine (atLine (.readbytes .L5) .readbytes 1#16 1 [] []) = .error (.portOverrun (.readbytes .L5)) := rfl
/-- ENG-16: with both flags in phase A the byte wins. -/
theorem test_regwrrd_both_flags :
    afterLine (engineLine (atLine (.regwrrd .L6) .regwrrd 2#16 0 [⟨true, true, true⟩] [])) (fun t => t.eng.seq) .idle =
      .regwrrd .L7 := by decide
/-- ENG-11: the flipped read bit at the restart. -/
theorem test_regwrrd_restart :
    afterLine (engineLine (atLine (.regwrrd .L8) .regwrrd 2#16 0 [] [])) (fun t => t.hist.trace) [] =
      [.writeAddr 0xA1#8] := by decide
/-- ENG-15. -/
theorem test_drain_overrun :
    engineLine (atLine (.regwrrd (.drain .D1)) .regwrrd 1#16 1 [] []) =
      .error (.drainOverrun (.regwrrd (.drain .D1))) := rfl

/-! ### Steps, memory, reset -/

/-- The first step after reset runs the word that is put in front of it. -/
theorem test_first_step :
    after (step (State.reset.withFetchWord 64 0x0100000100001000)) (fun t => (t.vrf.wbase, t.env)) (0, tgt.env) =
      (0x0100#16, Env.quiet) := by decide
/-- DEC-15: the refusal is recorded. -/
theorem test_refusal_recorded :
    (advance (State.reset.withFetchWord 64 0x0600000000000000)).outcome = .refused .reservedOpcode := by decide
/-- DSP-5: a faulted stop leaves STOPF. -/
theorem test_fault_leaves_stopf :
    (advance { tgt with slots := ⟨.vrf, .vrf, .empty⟩, port := { portAtReset with stopf := true },
                        env := { Env.quiet with port := [.deliver 0x2200000000000000#64] } }).port.stopf = true := by decide
theorem test_reset_memory_wf : State.reset.mem.wf = true := by decide
theorem test_write_keeps_form : (Memory.write [(1, 5#8), (3, 7#8)] 2 9#8) = [(1, 5#8), (2, 9#8), (3, 7#8)] := by decide
theorem test_write_unlisted_removes : (Memory.write [(1, 5#8), (3, 7#8)] 3 0#8) = [(1, 5#8)] := by decide
/-- R122: the other instance sees the stored byte at its next step. -/
theorem test_shared_memory :
    (sysStep 1 (sysStep 0
      ⟨[{ State.reset with env := { Env.quiet with fg := [.store 0x10#16 0x77#8] } },
        { State.reset with env := { Env.quiet with fg := [.load 0x10#16] } }], []⟩)).insts[1]?.map (fun t => t.hist.reads) =
      some [.byte 0x10#16 0x77#8] := by decide

/-! ### Witnesses: for each statement with hypotheses, a state and operands that meet them all, one for each clause -/

theorem witness_DecodeOfEncode :
    Instr.wellFormed (.regwrrd 0x7F#7 0xFF#8 0xFFFF#16 0xFFFF#16) = true ∧ Instr.wellFormed (.regs .custom 63#6) = true ∧
    Instr.wellFormed (.regw .vrf 0#6) = true := by decide

theorem witness_OneEncodingPerInstruction : decode 0x0400830000000000#64 = .ok (.regr .custom 3#6) := by decide

/-- DEC-1 to DEC-8: one word for each clause. -/
theorem witness_DecodingByFields :
    (∀ f, (fieldOpc 0x0600000000000000#64, f) ∉ admittedOpcodes) ∧
    ((fieldOpc 0x1150000200000301#64, .APN) ∈ admittedOpcodes ∧ dirtyFields .APN 0x1150000200000301#64) ∧
    ((fieldOpc 0x0300C00000000000#64, .CH) ∈ admittedOpcodes ∧ ¬ dirtyFields .CH 0x0300C00000000000#64 ∧
      fieldHsel 0x0300C00000000000#64 = 0b11#2) ∧
    (¬ dirtyFields .CH 0x0300410000000000#64 ∧ fieldHsel 0x0300410000000000#64 = 0b01#2 ∧
      fieldHid 0x0300410000000000#64 ≠ 0#6) ∧
    (¬ dirtyFields .CH 0x0400830000000000#64 ∧ fieldHsel 0x0400830000000000#64 = 0b10#2) := by
  unfold dirtyFields
  refine ⟨?_, by decide, by decide, by decide, by decide⟩
  intro f
  cases f <;> decide

/-- A controller whose foreground issues SENDBYTE, and a target whose port delivers EV_STOPPED. -/
theorem witness_StepRunsTheDecodedInstruction :
    (∃ t, nextMove { State.reset with env := { Env.quiet with fg := [.issue 0x103C7E0000000000#64] } } =
      some (.act (.issue 0x103C7E0000000000#64), t)) ∧
    (∃ t, nextMove { tgt with env := { Env.quiet with port := [.deliver 0x2200000000000000#64] } } =
      some (.port (.deliver 0x2200000000000000#64), t)) ∧
    decode 0x103C7E0000000000#64 = .ok (.sendbyte 0x3C#7 0x7E#8) ∧
    decode 0x0600000000000000#64 = .error .reservedOpcode :=
  ⟨⟨_, rfl⟩, ⟨_, rfl⟩, by decide, by decide⟩

theorem witness_NextStepRunsThePlacedWord :
    State.reset.outcome = .none ∧ tgt.outcome = .none ∧ Instr.wellFormed (.regs .custom 63#6) = true := by decide

/-- A command at a line, nothing else to do but a foreground that waits. -/
def running : State :=
  let s := atLine (.sendbyte .L1) .sendbyte 1#16 0 [⟨true, false, false⟩] []
  { s with env := { s.env with fg := [.load 0#16] } }

theorem witness_StepRunsTheEngineLine :
    Undisturbed running ∧ running.eng.busy = true ∧ running.eng.seq ≠ .idle :=
  ⟨⟨rfl, rfl, rfl, rfl, rfl⟩, rfl, by decide⟩

theorem witness_ForegroundIsBlockedByItsCommand :
    running.eng.busy = true ∧ running.env.fg ≠ [] ∧ ∃ t, step running = .next t := ⟨rfl, by decide, _, rfl⟩

/-- An event waits while delivery is masked, and the foreground takes a step. -/
theorem witness_MaskedPortDeliversNoEvent :
    let s := { tgt with env := { Env.quiet with
      masked := true, port := [.deliver 0x2200000000000000#64], fg := [.load 0#16] } }
    s.env.masked = true ∧ s.env.port = .deliver 0x2200000000000000#64 :: [] ∧ (∃ t, step s = .next t) ∧
      ∃ t, nextMove s = some (.act (.load 0#16), t) := ⟨rfl, rfl, ⟨_, rfl⟩, _, rfl⟩

theorem witness_IdleStays :
    State.reset.outcome = .none ∧ State.reset.eng.seq = .idle ∧ State.reset.env = Env.quiet := by decide

/-- VRF-14 (a fault) and DEC-1 (a refusal), as first words after reset; and a move. -/
theorem witness_StoppedStepChangesOnlyOutcome :
    State.reset.outcome = .none ∧
    step (State.reset.withFetchWord 64 0x3000050000000000) = .fault (.bufferUnbound .write) ∧
    step (State.reset.withFetchWord 64 0x0600000000000000) = .refused .reservedOpcode ∧
    ∃ t, nextMove (State.reset.withFetchWord 64 0x3000050000000000) = some (.act (.issue 0x3000050000000000#64), t) :=
  ⟨rfl, rfl, rfl, _, rfl⟩

/-- A recorded fault and a recorded refusal, without and with a reset to come. -/
theorem witness_OutcomeIsSticky :
    let s := { tgt with outcome := .fault .mixedDirection }
    let r := { tgt with outcome := .refused .roleMismatch }
    (s.outcome = .fault .mixedDirection ∧ s.env.resets = 0) ∧ (r.outcome = .refused .roleMismatch ∧ r.env.resets = 0) ∧
      s.outcome ≠ .none ∧ ∃ t, step { s with env := { Env.quiet with resets := 1 } } = .next t :=
  ⟨⟨rfl, rfl⟩, ⟨rfl, rfl⟩, by decide, _, rfl⟩

/-- A target after its run, with a foreground that still reads one byte and a port that still changes its registers. -/
def tgtDone : State := { tgt with env := { Env.quiet with fg := [.load 0#16], port := [.drive portAtReset] } }

theorem witness_tgtDone_ends : EndsWell tgtDone :=
  ⟨rfl, rfl, rfl, fun _ => ⟨.inl rfl, rfl, rfl, rfl⟩, by simp [NoWord, tgtDone], by simp [NoWord, tgtDone, Env.quiet],
    by simp [NoEvent, tgtDone]⟩

/-- A step of the port, and one of the foreground that is no store. -/
theorem witness_EndOfRunIsQuiescent :
    EndsWell tgtDone ∧ tgtDone.env.resets = 0 ∧ (∃ t, step tgtDone = .next t) ∧
      ∃ u, nextMove { tgtDone with env := { Env.quiet with fg := [.load 0#16] } } = some (.act (.load 0#16), u) :=
  ⟨witness_tgtDone_ends, rfl, ⟨_, rfl⟩, _, rfl⟩

/-- R135 item 4: a word in front of the instance bars a good end, whoever issues it. -/
theorem test_word_bars_end : ¬ EndsWell (State.reset.withFetchWord 64 0x3200000000000000) :=
  fun h => h.2.2.2.2.2.1 0x3200000000000000#64 (by decide)

/-- Each of the reads, with the last address of memory; each change of the mask; the largest CNT of CNT_W = 8 bits. -/
theorem witness_StepsWithoutAWord :
    (∀ x ∈ [Action.readVrf .cursor, .readVrf .isAddressByte, .readVrf .hadRead, .mask, .unmask, .load 0xFFFF#16],
      ∃ t, nextMove { tgt with env := { Env.quiet with fg := [x] } } = some (.act x, t)) ∧
    (∃ t, nextMove { tgt with env := { Env.quiet with port := [.drive { portAtReset with cnt := 255#16 }] } } =
      some (.port (.drive { portAtReset with cnt := 255#16 }), t)) ∧
    (0xFFFF#16).toNat < 2 ^ tgt.par.addrW ∧ (255#16).toNat < 2 ^ tgt.par.cntW :=
  ⟨fun _ _ => ⟨_, rfl⟩, ⟨_, rfl⟩, by decide, by decide⟩

/-- The first and the last address; and a state whose move is the store. -/
theorem witness_StoredByteIsRead :
    tgt5.mem.wf = true ∧ (0#16).toNat < 2 ^ tgt5.par.addrW ∧ (0xFFFF#16).toNat < 2 ^ tgt5.par.addrW ∧
    nextMove { tgt5 with env := { Env.quiet with fg := [.store 0xFFFF#16 1#8] } } =
      some (.act (.store 0xFFFF#16 1#8), tgt5) := ⟨by decide, by decide, by decide, rfl⟩

/-- One instance about to store at the top of memory, another about to load there. -/
theorem witness_InstancesShareOnlyMemory :
    let s := { State.reset with env := { Env.quiet with fg := [.store 0xFFFF#16 0x77#8] } }
    let u := { tgt with env := { Env.quiet with fg := [.load 0xFFFF#16] } }
    let y : System := ⟨[s, u], []⟩
    y.insts[0]? = some s ∧ (1 : Nat) ≠ 0 ∧ y.insts[1]? = some u ∧ y.mem.wf = true ∧
      (0xFFFF#16).toNat < 2 ^ s.par.addrW ∧ (0xFFFF#16).toNat < 2 ^ u.par.addrW ∧
      (∃ s', nextMove s = some (.act (.store 0xFFFF#16 0x77#8), s')) ∧
      ∃ u', nextMove u = some (.act (.load 0xFFFF#16), u') :=
  ⟨rfl, by decide, rfl, rfl, by decide, by decide, ⟨_, rfl⟩, _, rfl⟩

theorem witness_NoStepChangesTheParameters : ∃ t, step running = .next t := ⟨_, rfl⟩

/-- A reset in the middle of a command, and after a fault. -/
theorem witness_DeviceResetAbandons :
    let s := { running with outcome := .fault .concurrentCall, env := { Env.quiet with resets := 1, turns := [.device] } }
    0 < s.env.resets ∧ s.env.turns.head? = some .device := by decide

theorem witness_UnconfiguredEventsFault : tgtPar.role = .target := rfl

/-- CFG-3, CFG-4 and a buffer that ends exactly at the top of memory. -/
theorem witness_SetwbufBinds :
    ((0xFFF0#16).toNat < 2 ^ State.reset.par.addrW ∧ (0xFFF0#16).toNat + (16#16).toNat ≤ 2 ^ State.reset.par.addrW) ∧
    2 ^ State.reset.par.addrW < (0xFFF8#16).toNat + (16#16).toNat ∧
    2 ^ ({ Config.reference with addrW := 8 }).addrW ≤ (0x0100#16).toNat := by decide

theorem witness_SetrbufBinds :
    ((0xFFFF#16).toNat < 2 ^ State.reset.par.addrW ∧ (0xFFFF#16).toNat + (1#16).toNat ≤ 2 ^ State.reset.par.addrW) ∧
    2 ^ State.reset.par.addrW < (0xFFFF#16).toNat + (2#16).toNat ∧
    2 ^ ({ Config.reference with addrW := 8 }).addrW ≤ (0x0100#16).toNat := by decide

theorem witness_PseudoInstructionsExpand :
    (0xFFF0#16).toNat < 2 ^ tgt.par.addrW ∧ (0xFFF0#16).toNat + (16#16).toNat ≤ 2 ^ tgt.par.addrW := by decide

/-- Unbound; after a read; the pointer; the last byte that fits; the first that does not; a flat stream. -/
theorem witness_VrfStoreCases :
    State.reset.vrf.wbound = false ∧
    (let v := { sharedVrf with dir := .read }
     v.wbound = true ∧ v.dir = .read) ∧
    (tgt.vrf.wbound = true ∧ tgt.vrf.dir ≠ .read ∧ tgt.par.mode = .addressPrefixed ∧ tgt.vrf.isAddressByte = true) ∧
    (let v := { sharedVrf with cursor := 15, isAddressByte := false }
     v.wbound = true ∧ v.dir ≠ .read ∧ v.isAddressByte = false ∧ v.cursor < v.wsize ∧
       v.wbase.toNat + v.wsize ≤ 2 ^ tgt.par.addrW) ∧
    (let v := { sharedVrf with cursor := 16, isAddressByte := false }
     v.wbound = true ∧ v.dir ≠ .read ∧ v.isAddressByte = false ∧ v.wsize ≤ v.cursor) ∧
    ({ tgtPar with mode := .flatStream }).mode = .flatStream := by decide

/-- Unbound; the last byte of the buffer; the first past it. -/
theorem witness_VrfRequestCases :
    State.reset.vrf.rbound = false ∧
    (let v := { sharedVrf with cursor := 15 }
     v.rbound = true ∧ v.cursor < v.rsize ∧ v.rbase.toNat + v.rsize ≤ 2 ^ tgt.par.addrW) ∧
    (let v := { sharedVrf with cursor := 16 }
     v.rbound = true ∧ v.rsize ≤ v.cursor) := by decide

/-- Each clause: flat stream; a read with the cursor at 1; no read; cursor 0. -/
theorem witness_VrfStopCases :
    ({ tgtPar with mode := .flatStream }).mode = .flatStream ∧ tgt.par.mode = .addressPrefixed ∧
    (let v := { sharedVrf with cursor := 1, hadRead := true }
     v.hadRead = true ∧ v.cursor ≠ 0) ∧
    tgt.vrf.hadRead = false ∧ tgt.vrf.cursor = 0 := by decide

theorem witness_WriteTransactionLaw :
    tgt.par.mode = .addressPrefixed ∧ tgt.vrf.isAddressByte = true ∧ tgt.vrf.dir = .none ∧ tgt.vrf.hadRead = false ∧
    tgt.vrf.wbound = true ∧ tgt.vrf.wbase.toNat + tgt.vrf.wsize ≤ 2 ^ tgt.par.addrW ∧ tgt.mem.wf = true := by decide

theorem witness_ReadLaw :
    (1 : Nat) ≤ 1 ∧ tgt5.vrf.rbound = true ∧ tgt5.vrf.rbase.toNat + tgt5.vrf.rsize ≤ 2 ^ tgt5.par.addrW := by decide

theorem witness_StopCorrectionLaw :
    (1 : Nat) ≤ 3 ∧ tgt.par.role = .target ∧ tgt.par.mode = .addressPrefixed ∧ tgt.slots.read = .vrf ∧
    tgt.slots.stop = .vrf ∧ tgt.vrf.rbound = true ∧ tgt.vrf.rbase.toNat + tgt.vrf.rsize ≤ 2 ^ tgt.par.addrW := by decide

/-- A stored byte; a request whose memory differs outside the buffer only. -/
theorem witness_NoAccessOutsideTheBuffers :
    (tgt.mem.wf = true ∧ ∃ t, exec (.vrfStore 0x05#8) tgt = .next t) ∧
    (let m : Memory := [(0x0105, 0xAA#8), (0x0200, 1#8)]
     (∀ a, tgt5.vrf.rbase.toNat ≤ a → a < tgt5.vrf.rbase.toNat + tgt5.vrf.rsize → m.read a = tgt5.mem.read a) ∧
       (∃ t, exec .vrfRequest tgt5 = .next t) ∧ ∃ u, exec .vrfRequest { tgt5 with mem := m } = .next u) := by
  refine ⟨⟨rfl, _, rfl⟩, ?_, ⟨_, rfl⟩, _, rfl⟩
  intro a _ ha
  have hlt : a < 0x0110 := ha
  by_cases h1 : a = 0x0105
  · subst h1
    rfl
  · simp only [tgt5, Memory.read, if_neg h1]
    rw [if_neg (by omega)]

/-- The target in the middle of a read transaction. -/
def tgtRead : State := { tgt with vrf := { sharedVrf with cursor := 1, hadRead := true, dir := .read } }

theorem witness_tgtRead_inv : Inv tgtRead := by
  constructor <;> decide

theorem witness_StopGuardIsRedundant :
    Inv tgtRead ∧ tgtRead.vrf.hadRead = true ∧ tgtRead.par.mode = .addressPrefixed :=
  ⟨witness_tgtRead_inv, rfl, rfl⟩

/-- A data byte; a request below and at the parked value; a request above it (VRF-7). -/
theorem witness_CursorRisesWithinATransaction :
    (let s := { tgt with vrf := { sharedVrf with isAddressByte := false } }
     s.vrf.isAddressByte = false ∧ ∃ t, exec (.vrfStore 0x11#8) s = .next t) ∧
    (let s := { tgt with vrf := { sharedVrf with cursor := 17 } }
     s.vrf.cursor ≤ s.vrf.rsize + 1 ∧ ∃ t, exec .vrfRequest s = .next t) ∧
    (let s := { tgt with vrf := { sharedVrf with cursor := 18 } }
     s.vrf.rsize + 1 < s.vrf.cursor ∧ ∃ t, exec .vrfRequest s = .next t) :=
  ⟨⟨rfl, _, rfl⟩, ⟨by decide, _, rfl⟩, by decide, _, rfl⟩

theorem witness_CursorIsBounded :
    let s := { tgt with env := { Env.quiet with port := [.deliver 0x2000FF0000000000#64] } }
    CursorBound 16 16 s ∧ ∃ t, step s = .next t := ⟨by unfold CursorBound; decide, _, rfl⟩

/-- The last byte of a shared buffer, written and read back, in each mode. -/
theorem witness_AliasedBuffersReadBack :
    ∀ s ∈ [{ tgt with par := { tgtPar with mode := .flatStream }, vrf := { sharedVrf with cursor := 15 } },
        { tgt with vrf := { sharedVrf with cursor := 15, isAddressByte := false, dir := .write } }],
      s.mem.wf = true ∧ s.vrf.wbound = true ∧ s.vrf.rbound = true ∧ s.vrf.dir ≠ .read ∧
      (s.par.mode = .flatStream ∨ s.vrf.isAddressByte = false) ∧ s.vrf.cursor < s.vrf.wsize ∧ 15 < s.vrf.rsize ∧
      s.vrf.wbase.toNat + s.vrf.wsize ≤ 2 ^ s.par.addrW ∧ s.vrf.rbase.toNat + s.vrf.rsize ≤ 2 ^ s.par.addrW ∧
      s.vrf.rbase.toNat + 15 = s.vrf.wbase.toNat + s.vrf.cursor := by
  decide

/-- One instruction of each class. -/
theorem witness_OnlyNamedOperationsWrite :
    (∃ t, exec (.regw .custom 1#6) tgt = .next t) ∧ (∃ t, exec (.readbyte 0x50#7) State.reset = .next t) ∧
    (∃ t, exec (.evWritten 0x05#8) tgt = .next t) ∧ ∃ t, exec .vrfStop tgt = .next t :=
  ⟨⟨_, rfl⟩, ⟨_, rfl⟩, ⟨_, rfl⟩, _, rfl⟩

/-- Each role and each content of the slot. -/
theorem witness_EvWrittenDispatches :
    State.reset.par.role = .controller ∧ tgt.par.role = .target ∧ (State.resetWith tgtPar).slots.write = .empty ∧
    (tgt.slots.write = .vrf ∧ tgt.vrf.wbound = true ∧ tgt.vrf.dir ≠ .read ∧
      tgt.vrf.wbase.toNat + tgt.vrf.wsize ≤ 2 ^ tgt.par.addrW) ∧
    (tgtRead.slots.write = .vrf ∧ exec (.vrfStore 0x01#8) tgtRead = .fault .mixedDirection) ∧
    ({ tgt with slots := ⟨.custom 63#6, .vrf, .vrf⟩ }).slots.write = .custom 63#6 :=
  ⟨rfl, rfl, rfl, by decide, ⟨rfl, rfl⟩, rfl⟩

theorem witness_EvRequestedAnswers :
    State.reset.par.role = .controller ∧ tgt.par.role = .target ∧ (State.resetWith tgtPar).slots.read = .empty ∧
    (let s := { tgt with vrf := Vrf.reset }
     s.par.role = .target ∧ s.slots.read = .vrf ∧ s.vrf.rbound = false) ∧
    (tgt.slots.read = .vrf ∧ tgt.vrf.rbound = true ∧ tgt.vrf.rbase.toNat + tgt.vrf.rsize ≤ 2 ^ tgt.par.addrW) ∧
    ({ tgt with slots := ⟨.vrf, .custom 0#6, .vrf⟩ }).slots.read = .custom 0#6 := by decide

theorem witness_EvStoppedDispatches :
    State.reset.par.role = .controller ∧ tgt.par.role = .target ∧ (State.resetWith tgtPar).slots.stop = .empty ∧
    tgt.slots.stop = .vrf ∧ ({ tgt with slots := ⟨.vrf, .vrf, .custom 2#6⟩ }).slots.stop = .custom 2#6 := by decide

/-- Each class and each role. -/
theorem witness_RoleGating :
    ((Instr.evStopped).cls = 2 ∧ State.reset.par.role ≠ .target) ∧
    ((Instr.sendbyte 0x50#7 0#8).cls = 1 ∧ tgt.par.role ≠ .controller) ∧
    ((Instr.vrfStop).cls = 3 ∧ (Instr.setwbuf 0#16 0#16).cls = 0 ∧ ∃ t, exec (.setwbuf 0#16 0#16) tgt = .next t) :=
  ⟨by decide, by decide, by decide, by decide, _, rfl⟩

/-- Each of the VRF's operations completes; a buffer of one byte at the top of memory, with the cursor at 0, in each
mode. -/
theorem witness_ReconfigurationIsSeenByTheNextEvent :
    (tgt.par.role = .target ∧ (∃ u, exec (.vrfStore 0x05#8) tgt = .next u) ∧ (∃ u, exec .vrfRequest tgt = .next u) ∧
      ∃ u, exec .vrfStop tgt = .next u) ∧
    ∀ s ∈ [{ tgt with par := { tgtPar with mode := .flatStream } },
        { tgt with vrf := { sharedVrf with isAddressByte := false, dir := .write } }],
      (0xFFFF#16).toNat + (1#16).toNat ≤ 2 ^ s.par.addrW ∧ s.vrf.cursor < (1#16).toNat ∧ s.vrf.dir ≠ .read ∧
        (s.par.mode = .flatStream ∨ s.vrf.isAddressByte = false) :=
  ⟨⟨rfl, ⟨_, rfl⟩, ⟨_, rfl⟩, _, rfl⟩, by decide⟩

/-- The shortest and the longest payload (CNT_W = 8), the latter ending at the top of memory. -/
theorem witness_AdmittedCommandsEnter :
    Admitted State.reset .sendbyte 0#16 0#16 ∧ Admitted State.reset .readbyte 0#16 0#16 ∧
    Admitted State.reset .sendbytes 0x0200#16 1#16 ∧ Admitted State.reset .readbytes 0xFF01#16 255#16 ∧
    Admitted State.reset .regwrrd 0x0400#16 4#16 :=
  ⟨⟨rfl, rfl, by decide⟩, ⟨rfl, rfl, by decide⟩, ⟨rfl, rfl, by decide⟩, ⟨rfl, rfl, by decide⟩, ⟨rfl, rfl, by decide⟩⟩

/-- Each check: the role, a running command, length 0, length 256, one byte past memory. -/
theorem witness_EntryChecksInOrder :
    tgt.par.role = .target ∧ (running.par.role = .controller ∧ running.eng.busy = true) ∧
    (State.reset.par.role = .controller ∧ State.reset.eng.busy = false) ∧
    (256#16 ≠ 0#16 ∧ 2 ^ State.reset.par.cntW ≤ (256#16).toNat) ∧
    (1#16 ≠ 0#16 ∧ (2#16).toNat < 2 ^ State.reset.par.cntW ∧
      2 ^ State.reset.par.addrW < (0xFFFF#16).toNat + (2#16).toNat) := by decide

/-- ENG-1. -/
theorem witness_SendbyteRuns :
    let s := ctl [⟨true, true, false⟩, ⟨false, true, false⟩] [] [0#16]
    Admitted s .sendbyte 0#16 0#16 ∧ Undisturbed s ∧
      SendScript s.env [⟨true, true, false⟩] ⟨false, true, false⟩ 0#16 :=
  ⟨⟨rfl, rfl, by decide⟩, ⟨rfl, rfl, rfl, rfl, rfl⟩, ⟨by unfold AllActive; decide, rfl, ⟨[], rfl⟩, ⟨[], rfl⟩⟩⟩

/-- ENG-3 on memory 11 22 33. -/
theorem witness_SendbytesRuns :
    let s := { ctl [⟨true, false, false⟩, ⟨false, false, false⟩] [] [2#16] with
      mem := [(0x0200, 0x11#8), (0x0201, 0x22#8), (0x0202, 0x33#8)] }
    Admitted s .sendbytes 0x0200#16 3#16 ∧ Undisturbed s ∧
      SendScript s.env [⟨true, false, false⟩] ⟨false, false, false⟩ 2#16 ∧
      payloadBytes s.mem (0x0200#16).toNat (3#16).toNat = 0x11#8 :: [0x22#8, 0x33#8] :=
  ⟨⟨rfl, rfl, by decide⟩, ⟨rfl, rfl, rfl, rfl, rfl⟩, ⟨by unfold AllActive; decide, rfl, ⟨[], rfl⟩, ⟨[], rfl⟩⟩,
    by decide⟩

theorem witness_SendbyteIsSendbytesOfOne :
    (∃ t, exec (.sendbyte 0x50#7 (State.reset.mem.read (0xFFFF#16).toNat)) State.reset = .next t ∧
      ∃ t', engineLines 4 t = .ok t') ∧
    ∃ u, exec (.sendbytes 0x50#7 0xFFFF#16 1#16) State.reset = .next u := ⟨⟨_, rfl, _, rfl⟩, _, rfl⟩

/-- ENG-5, and ENG-6 (no byte at all). -/
theorem witness_ReadbyteRuns :
    (let s := ctl [⟨true, false, true⟩, ⟨false, false, false⟩] [0x42#8] []
     Admitted s .readbyte 0#16 0#16 ∧ Undisturbed s ∧
       ReadScript s.env s.par.drainWaits s.par.readbytesDrain [⟨true, false, true⟩] ⟨false, false, false⟩ [] [0x42#8]) ∧
    (let s := ctl [⟨true, false, false⟩, ⟨false, false, false⟩] [] []
     Admitted s .readbyte 0#16 0#16 ∧ Undisturbed s ∧
       ReadScript s.env s.par.drainWaits s.par.readbytesDrain [⟨true, false, false⟩] ⟨false, false, false⟩ [] []) :=
  ⟨⟨⟨rfl, rfl, by decide⟩, ⟨rfl, rfl, rfl, rfl, rfl⟩,
    ⟨by unfold AllActive; decide, rfl, ⟨[], rfl⟩, rfl, rfl, ⟨[], rfl⟩⟩⟩,
   ⟨rfl, rfl, by decide⟩, ⟨rfl, rfl, rfl, rfl, rfl⟩,
    ⟨by unfold AllActive; decide, rfl, ⟨[], rfl⟩, rfl, rfl, ⟨[], rfl⟩⟩⟩

/-- ENG-8, and a read that drains and waits (READBYTES_DRAIN and DRAIN_WAITS). -/
theorem witness_ReadbytesRuns :
    (let s := ctl [⟨true, false, false⟩, ⟨true, false, true⟩, ⟨true, false, true⟩, ⟨false, false, false⟩]
       [0x9A#8, 0x9B#8] [0#16]
     Admitted s .readbytes 0x0300#16 2#16 ∧ Undisturbed s ∧ s.mem.wf = true ∧
       ReadScript s.env s.par.drainWaits s.par.readbytesDrain
         [⟨true, false, false⟩, ⟨true, false, true⟩, ⟨true, false, true⟩] ⟨false, false, false⟩ [] [0x9A#8, 0x9B#8] ∧
       [0x9A#8, 0x9B#8].length ≤ (2#16).toNat ∧ s.env.cnts = 0#16 :: []) ∧
    (let s := { ctl [⟨false, false, false⟩, ⟨false, false, false⟩, ⟨false, false, true⟩] [0x5C#8] [1#16] with
       par := { Config.reference with drainWaits := true, readbytesDrain := true } }
     Admitted s .readbytes 0x0300#16 2#16 ∧ Undisturbed s ∧ s.mem.wf = true ∧
       ReadScript s.env s.par.drainWaits s.par.readbytesDrain [] ⟨false, false, false⟩
         [⟨false, false, false⟩, ⟨false, false, true⟩] [0x5C#8] ∧
       [0x5C#8].length ≤ (2#16).toNat ∧ s.env.cnts = 1#16 :: []) :=
  ⟨⟨⟨rfl, rfl, by decide⟩, ⟨rfl, rfl, rfl, rfl, rfl⟩, rfl,
    ⟨by unfold AllActive; decide, rfl, ⟨[], rfl⟩, rfl, rfl, ⟨[], rfl⟩⟩, by decide, rfl⟩,
   ⟨rfl, rfl, by decide⟩, ⟨rfl, rfl, rfl, rfl, rfl⟩, rfl,
    ⟨by unfold AllActive; decide, rfl, ⟨[], rfl⟩,
      ⟨[⟨false, false, false⟩], ⟨false, false, true⟩, rfl, by decide, rfl⟩, rfl, ⟨[], rfl⟩⟩, by decide, rfl⟩

/-- ENG-11, with its stale byte FF. -/
theorem witness_CombinedReadIsExact :
    let s := ctl [⟨true, false, true⟩, ⟨true, true, false⟩, ⟨true, false, false⟩, ⟨true, false, true⟩,
      ⟨true, false, true⟩, ⟨true, false, true⟩, ⟨false, false, false⟩] [0xFF#8, 0xC0#8, 0xC1#8, 0xC2#8, 0xC3#8] [0#16]
    Admitted s .regwrrd 0x0400#16 4#16 ∧ Undisturbed s ∧ s.mem.wf = true ∧
      [0xC0#8, 0xC1#8, 0xC2#8, 0xC3#8].length = (4#16).toNat ∧
      CombinedScript s.env s.par [0xC0#8, 0xC1#8, 0xC2#8, 0xC3#8] :=
  ⟨⟨rfl, rfl, by decide⟩, ⟨rfl, rfl, rfl, rfl, rfl⟩, rfl, rfl,
    ⟨[⟨true, false, true⟩], ⟨true, true, false⟩,
      [⟨true, false, false⟩, ⟨true, false, true⟩, ⟨true, false, true⟩, ⟨true, false, true⟩], ⟨false, false, false⟩, [],
      [0xFF#8], [], [], [], 0#16, by unfold AllActive; decide, by decide, rfl, rfl, rfl, by unfold AllActive; decide,
      rfl, rfl, rfl, rfl, rfl, rfl, rfl, rfl⟩⟩

/-- ENG-13. -/
theorem witness_CombinedReadAfterNack :
    let s := ctl [⟨false, false, false⟩] [0x5C#8] [1#16]
    Admitted s .regwrrd 0x0400#16 4#16 ∧ Undisturbed s ∧ s.mem.wf = true ∧
      DrainPolls s.par.drainWaits [] ∧ s.env.polls = ⟨false, false, false⟩ :: ([] ++ []) ∧ s.env.rxbs = 0x5C#8 :: [] ∧
      s.env.cnts = 1#16 :: [] :=
  ⟨⟨rfl, rfl, by decide⟩, ⟨rfl, rfl, rfl, rfl, rfl⟩, rfl, rfl, rfl, rfl, rfl⟩

/-- Counts of CNT_W = 8 bits that a port may answer: none left, and the most. -/
theorem witness_SuccessLaw_counts :
    (ctl [] [] [0#16]).env.cnts = 0#16 :: [] ∧ (0#16).toNat < 2 ^ Config.reference.cntW ∧
    (ctl [] [] [255#16]).env.cnts = 255#16 :: [] ∧ (255#16).toNat < 2 ^ Config.reference.cntW :=
  ⟨rfl, by decide, rfl, by decide⟩

/-- Each of the three lines. -/
theorem witness_SuccessLaw :
    (let s := atLine (.sendbytes .L7) .sendbytes 3#16 3 [] []
     Undisturbed s ∧ s.eng.busy = true ∧ s.eng.seq = .sendbytes .L7) ∧
    (let s := atLine (.readbytes .L7) .readbytes 3#16 3 [] []
     Undisturbed s ∧ s.eng.busy = true ∧ s.eng.seq = .readbytes .L7) ∧
    (let s := atLine (.regwrrd .L13) .regwrrd 3#16 3 [] []
     Undisturbed s ∧ s.eng.busy = true ∧ s.eng.seq = .regwrrd .L13) :=
  ⟨⟨⟨rfl, rfl, rfl, rfl, rfl⟩, rfl, rfl⟩, ⟨⟨rfl, rfl, rfl, rfl, rfl⟩, rfl, rfl⟩, ⟨rfl, rfl, rfl, rfl, rfl⟩, rfl, rfl⟩

/-- ENG-17: two polls that show the transaction, two steps; and at each line that collects a byte, with room for one. -/
theorem witness_CommandWaitsWhileActive :
    (let s := atLine (.sendbyte .L5) .sendbyte 1#16 1 [⟨true, false, false⟩, ⟨true, false, false⟩] []
     Undisturbed s ∧ s.eng.busy = true ∧ s.eng.seq.inLoop = true ∧ AllActive s.env.polls ∧ 2 ≤ s.env.polls.length ∧
       (∃ t, core.run 2 s = .next t) ∧ Inv s ∧ ∀ p ∈ s.env.polls, p.rxbf = false) ∧
    ∀ x ∈ [(SeqPos.readbyte .L5, CtrlOp.readbyte), (.readbytes .L5, .readbytes), (.regwrrd .L11, .regwrrd)],
      let s := atLine x.1 x.2 1#16 0 [⟨true, false, false⟩] [0x42#8]
      Undisturbed s ∧ s.eng.busy = true ∧ s.eng.seq.inLoop = true ∧ AllActive s.env.polls ∧ 1 ≤ s.env.polls.length ∧
        Inv s ∧ (∀ p ∈ s.env.polls, p.rxbf = false) ∧ s.eng.work.i = 0 ∧ s.eng.work.i < s.eng.work.n.toNat := by
  refine ⟨⟨⟨rfl, rfl, rfl, rfl, rfl⟩, rfl, rfl, by unfold AllActive; decide, by decide, ⟨_, rfl⟩, ?_, by decide⟩, ?_⟩
  · constructor <;> decide
  · intro x hx
    simp only [List.mem_cons, List.not_mem_nil, or_false] at hx
    rcases hx with rfl | rfl | rfl <;>
      exact ⟨⟨rfl, rfl, rfl, rfl, rfl⟩, rfl, rfl, by unfold AllActive; decide, by decide, by constructor <;> decide,
        by decide, rfl, by decide⟩

/-- ENG-18, at the drain of each command. -/
theorem witness_DrainWaitsForTheByte :
    ∀ q ∈ [SeqPos.readbyte (.drain .D2), .readbytes (.drain .D2), .regwrrd (.drain .D2)],
      let s := { atLine q .regwrrd 4#16 0 [⟨false, false, false⟩] [] with
        par := { Config.reference with drainWaits := true, readbytesDrain := true } }
      Undisturbed s ∧ s.eng.busy = true ∧ s.par.drainWaits = true ∧ s.eng.seq = q ∧
        s.env.polls = [⟨false, false, false⟩] ++ [] ∧ ∀ p ∈ [(⟨false, false, false⟩ : Snapshot)], p.rxbf = false := by
  intro q _
  exact ⟨⟨rfl, rfl, rfl, rfl, rfl⟩, rfl, rfl, rfl, rfl, by decide⟩

/-- A full payload at each of the six lines (ENG-10, ENG-15). -/
theorem witness_OverrunsFault :
    ∀ q ∈ [SeqPos.readbyte .L5, .readbytes .L5, .regwrrd .L11, .readbyte (.drain .D1), .readbytes (.drain .D1),
        .regwrrd (.drain .D1)],
      let s := atLine q .readbytes 1#16 1 [] []
      Undisturbed s ∧ s.eng.busy = true ∧ s.eng.seq = q ∧ 1 ≤ s.eng.work.i ∧ s.eng.work.n.toNat ≤ s.eng.work.i := by
  intro q _
  exact ⟨⟨rfl, rfl, rfl, rfl, rfl⟩, rfl, rfl, Nat.le_refl 1, Nat.le_refl 1⟩

/-- A line that stores, the line that discards a stale byte, the one that writes RSEN, and a return. -/
theorem witness_EngineLineFrame :
    (∃ t, engineLine (atLine (.readbytes .L5) .readbytes 2#16 1 [] [0x9B#8]) = .ok t) ∧
    ∀ x ∈ [(SeqPos.regwrrd .L7, CtrlOp.regwrrd), (.regwrrd .L4, .regwrrd), (.sendbyte .L7, .sendbyte)],
      let s := atLine x.1 x.2 1#16 0 [] [0xFF#8]
      s.mem.wf = true ∧ s.eng.seq ∉ storingLines ∧ ∃ t, engineLine s = .ok t := by
  refine ⟨⟨_, rfl⟩, fun x hx => ?_⟩
  simp only [List.mem_cons, List.not_mem_nil, or_false] at hx
  rcases hx with rfl | rfl | rfl <;> exact ⟨rfl, by decide, _, rfl⟩

theorem witness_InvariantAfterReset : Config.reference.wf = true ∧ tgtPar.wf = true := by decide

/-- A running command, and a step of it. -/
theorem witness_StepKeepsTheInvariant :
    let s := atLine (.readbytes .L5) .readbytes 2#16 1 [] [0x9B#8]
    Inv s ∧ ∃ t, step s = .next t := by
  refine ⟨?_, _, rfl⟩
  constructor <;> decide

/-- With ADDR_W = 8, a foreground load of address 0x0100. -/
theorem witness_NoCommandAddressesMissingMemory :
    let s := { State.reset with par := { Config.reference with addrW := 8 },
                                env := { Env.quiet with fg := [.load 0x0100#16] } }
    Inv s ∧ step s = .fault (.noSuchAddress 0x0100) ∧ s.outcome = .none := by
  refine ⟨?_, rfl, rfl⟩
  constructor <;> decide

end Sys2Proof.Tests
end

section
/-! SUPPORT. What a move leaves of the inputs still to come, and R4's blocked foreground. -/

namespace Sys2Proof.Machine

/-- The inputs of the agents still to come, and the turns, are the same; the mask may differ. -/
def SamePending (s t : State) : Prop :=
  t.env.fg = s.env.fg ∧ t.env.port = s.env.port ∧ t.env.other = s.env.other ∧ t.env.resets = s.env.resets ∧
    t.env.turns = s.env.turns

theorem SamePending.of_env_eq {s t : State} (h : t.env = s.env) : SamePending s t := by
  simp [SamePending, h]

theorem SameInputs.samePending {s t : State} (h : SameInputs s t) : SamePending s t := by
  obtain ⟨hfg, hport, hother, hresets, hturns, -, -⟩ := h
  exact ⟨hfg, hport, hother, hresets, hturns⟩

/-- A word that completes is an instruction that completes. -/
theorem runWord_eq_next {cw : CmdWord} {s t : State} :
    runWord cw s = .next t ↔ ∃ i, decode cw = .ok i ∧ exec i s = .next t := by
  rw [runWord]
  cases decode cw <;> simp

/-- A word uses up no input beyond its own. -/
theorem runWord_sameInputs {cw : CmdWord} {s t : State} (h : runWord cw s = .next t) : SameInputs s t := by
  obtain ⟨i, -, hi⟩ := runWord_eq_next.mp h
  exact (exec_keeps hi).1

/-- An action of the foreground or of another caller uses up no input beyond itself. -/
theorem runAction_samePending {x : Action} {s t : State} (h : runAction x s = .next t) : SamePending s t := by
  cases x with
  | issue cw => exact (runWord_sameInputs h).samePending
  | load a =>
    simp only [runAction] at h
    split at h <;> cases h
    exact .of_env_eq rfl
  | store a v =>
    obtain ⟨-, rfl⟩ := State.writeByte_eq_ok.mp (ofExcept_eq_next.mp h)
    exact .of_env_eq rfl
  | readVrf f => cases h; exact .of_env_eq rfl
  | mask => cases h; exact ⟨rfl, rfl, rfl, rfl, rfl⟩
  | unmask => cases h; exact ⟨rfl, rfl, rfl, rfl, rfl⟩

/-- A step of the port uses up no input beyond itself. -/
theorem runPortAction_samePending {x : PortAction} {s t : State} (h : runPortAction x s = .next t) :
    SamePending s t := by
  cases x with
  | deliver cw => exact (runWord_sameInputs h).samePending
  | drive regs => cases h; exact .of_env_eq rfl

/-- Performing a move uses up no turn and no input: `nextMove` has done so already; a device reset leaves what is
still to come (log 8). -/
theorem perform_samePending {m : Move} {s t : State} (h : perform m s = .next t) : SamePending s t := by
  cases m with
  | act x => exact runAction_samePending h
  | port x => exact runPortAction_samePending h
  | engine => exact (engineLine_keeps (ofExcept_eq_next.mp h)).2.samePending
  | reset => cases h; exact ⟨rfl, rfl, rfl, rfl, rfl⟩

/-- With no agent that can move, the state stays (R124). -/
theorem atRest_eq_next {s t : State} (h : atRest s = .next t) : t = s := by
  rw [atRest] at h
  split at h <;> cases h
  rfl

/-- While a command runs the move is not the foreground's (R4), so none of its actions is used up. -/
theorem nextMove_fg_of_busy {s t : State} {m : Move} (hb : s.eng.busy = true) (h : nextMove s = some (m, t)) :
    t.env.fg = s.env.fg := by
  obtain ⟨_, _, -, hfree, -⟩ | ⟨_, _, -, -, -, rfl⟩ | ⟨_, _, -, -, -, -, rfl⟩ | ⟨-, -, -, rfl⟩ | ⟨-, -, rfl⟩ :=
    nextMove_cases h
  · rw [hb] at hfree
    cases hfree
  all_goals rfl

/-- Settles O9: a busy engine shuts the foreground out of the choice of the move, and performing another agent's move
uses up no input. -/
theorem foregroundIsBlockedByItsCommand : Obligations.ForegroundIsBlockedByItsCommand := by
  intro s t hb h
  cases hm : nextMove s with
  | none =>
    rw [step_of_rest hm] at h
    rw [atRest_eq_next h]
  | some move =>
    obtain ⟨m, u⟩ := move
    rw [step_of_move hm] at h
    calc t.env.fg = u.env.fg := (perform_samePending h).1
      _ = s.env.fg := nextMove_fg_of_busy hb hm

end Sys2Proof.Machine
end

section
/-! SUPPORT. What one step can do, said once: `Effect` lists the moves by what they do to the block. The line as a step,
and the parameters under a step, are read off it. -/

namespace Sys2Proof.Machine

/-- What performing a move on `s` can be: an instruction, an engine line, a device reset, a caller's store, the port's
change of its own registers, or a move that touches only the outside world and the records. -/
inductive Effect (s t : State) : Prop
  | word (i : Instr) (h : exec i s = .next t)
  | line (h : engineLine s = .ok t)
  | reset (h : t = s.deviceReset)
  | store (a : Nat) (v : Byte) (ha : a < 2 ^ s.par.addrW) (h : t = { s with mem := s.mem.write a v })
  | drive (regs : PortRegs) (h : t = { s with port := { regs with cnt := s.par.cntTrunc regs.cnt } })
  | outside (e : Env) (r : Hist) (h : t = { s with env := e, hist := r })

theorem runWord_effect {cw : CmdWord} {s t : State} (h : runWord cw s = .next t) : Effect s t := by
  obtain ⟨i, -, hi⟩ := runWord_eq_next.mp h
  exact .word i hi

theorem runAction_effect {x : Action} {s t : State} (h : runAction x s = .next t) : Effect s t := by
  cases x with
  | issue cw => exact runWord_effect h
  | load a =>
    simp only [runAction] at h
    split at h <;> cases h
    exact .outside _ _ rfl
  | store a v =>
    obtain ⟨ha, rfl⟩ := State.writeByte_eq_ok.mp (ofExcept_eq_next.mp h)
    exact .store _ v ha rfl
  | readVrf f => cases h; exact .outside _ _ rfl
  | mask => cases h; exact .outside _ _ rfl
  | unmask => cases h; exact .outside _ _ rfl

theorem runPortAction_effect {x : PortAction} {s t : State} (h : runPortAction x s = .next t) : Effect s t := by
  cases x with
  | deliver cw => exact runWord_effect h
  | drive regs => cases h; exact .drive regs rfl

theorem perform_effect {m : Move} {s t : State} (h : perform m s = .next t) : Effect s t := by
  cases m with
  | act x => exact runAction_effect h
  | port x => exact runPortAction_effect h
  | engine => exact .line (ofExcept_eq_next.mp h)
  | reset => cases h; exact .reset rfl

/-- Choosing the next move changes only the outside world's inputs. -/
theorem nextMove_env {s u : State} {m : Move} (h : nextMove s = some (m, u)) : ∃ e, u = { s with env := e } := by
  obtain ⟨_, _, -, -, -, -, rfl⟩ | ⟨_, _, -, -, -, rfl⟩ | ⟨_, _, -, -, -, -, rfl⟩ | ⟨-, -, -, rfl⟩ | ⟨-, -, rfl⟩ :=
    nextMove_cases h
  all_goals exact ⟨_, rfl⟩

/-- A step that completes leaves the state as it is, or is one effect on the state with the input used up. -/
theorem step_effect {s t : State} (h : step s = .next t) : t = s ∨ ∃ e, Effect { s with env := e } t := by
  cases hm : nextMove s with
  | none =>
    rw [step_of_rest hm] at h
    exact .inl (atRest_eq_next h)
  | some move =>
    obtain ⟨m, u⟩ := move
    rw [step_of_move hm] at h
    obtain ⟨e, rfl⟩ := nextMove_env hm
    exact .inr ⟨e, perform_effect h⟩

/-- No effect changes a parameter of the run, a device reset included (R31). -/
theorem Effect.par_eq {s t : State} (h : Effect s t) : t.par = s.par := by
  cases h with
  | word i h => exact (exec_keeps h).2.1
  | line h => exact (engineLine_keeps h).1.1
  | reset h => rw [h]; rfl
  | store a v ha h => rw [h]
  | drive regs h => rw [h]
  | outside e r h => rw [h]

/-- Settles O8: undisturbed, the engine is the agent that moves, and its move is the line. -/
theorem stepRunsTheEngineLine : Obligations.StepRunsTheEngineLine :=
  fun _ hu hb hq => step_engine hu hb hq

/-- Settles O18: the inputs are no parameter, and no effect changes one. -/
theorem noStepChangesTheParameters : Obligations.NoStepChangesTheParameters := by
  intro s t h
  obtain rfl | ⟨e, he⟩ := step_effect h
  · rfl
  · exact he.par_eq

end Sys2Proof.Machine
end

section
/-! SUPPORT. What each operation completes with, and the frame of all sixteen (R12 to R18, R32). -/

namespace Sys2Proof.Machine

/-- SETWBUF completes on a buffer inside memory (R44, R83). -/
theorem execSetwbuf_cases {ptr n : Half} {s t : State} (h : execSetwbuf ptr n s = .next t) :
    bufferInRange s.par ptr n = true ∧
      t = { s with vrf := { s.vrf with wbase := ptr, wsize := n.toNat, wbound := true } } := by
  rw [execSetwbuf] at h
  split at h <;> cases h
  exact ⟨‹_›, rfl⟩

/-- SETRBUF completes on a buffer inside memory (R44, R84). -/
theorem execSetrbuf_cases {ptr n : Half} {s t : State} (h : execSetrbuf ptr n s = .next t) :
    bufferInRange s.par ptr n = true ∧
      t = { s with vrf := { s.vrf with rbase := ptr, rsize := n.toNat, rbound := true } } := by
  rw [execSetrbuf] at h
  split at h <;> cases h
  exact ⟨‹_›, rfl⟩

/-- The word VRF_REQUEST returns the byte that the operation answers (R86). -/
theorem execVrfRequest_cases {s t : State} (h : execVrfRequest s = .next t) :
    ∃ v u, vrfRequestOp s = .ok (v, u) ∧
      t = { u with hist := { u.hist with results := u.hist.results ++ [.vrfByte v] } } := by
  rw [execVrfRequest] at h
  split at h <;> cases h
  exact ⟨_, _, ‹_›, rfl⟩

/-- EV_WRITTEN completes by the VRF or by a custom handler, which changes nothing (R99, R102). -/
theorem execEvWritten_cases {d : Byte} {s t : State} (h : execEvWritten d s = .next t) :
    s.par.role = .target ∧
      ((s.slots.write = .vrf ∧ ∃ u, vrfStoreOp d s = .ok u ∧ t = u.delivered .written) ∨
       ∃ k, s.slots.write = .custom k ∧ t = s.delivered .written) := by
  rw [execEvWritten] at h
  split at h
  · cases h
  refine ⟨not_not.mp ‹_›, ?_⟩
  split at h
  · cases h
  · split at h <;> cases h
    exact .inl ⟨‹_›, _, ‹_›, rfl⟩
  · cases h
    exact .inr ⟨_, ‹_›, rfl⟩

/-- EV_REQUESTED loads the VRF's byte or a drawn one into TXB (R100, R102). -/
theorem execEvRequested_cases {s t : State} (h : execEvRequested s = .next t) :
    s.par.role = .target ∧
      ((s.slots.read = .vrf ∧ ∃ v u, vrfRequestOp s = .ok (v, u) ∧ t = (u.answer v).delivered .requested) ∨
       ∃ k, s.slots.read = .custom k ∧ t = (s.drew.answer s.drawAnswer).delivered .requested) := by
  rw [execEvRequested] at h
  split at h
  · cases h
  refine ⟨not_not.mp ‹_›, ?_⟩
  split at h
  · cases h
  · split at h <;> cases h
    exact .inl ⟨‹_›, _, _, ‹_›, rfl⟩
  · cases h
    exact .inr ⟨_, ‹_›, rfl⟩

/-- EV_STOPPED clears the stop flag after the handler (R101). -/
theorem execEvStopped_cases {s t : State} (h : execEvStopped s = .next t) :
    s.par.role = .target ∧
      ((s.slots.stop = .vrf ∧ t = (vrfStopOp s).portClearStop.delivered .stopped) ∨
       ∃ k, s.slots.stop = .custom k ∧ t = s.portClearStop.delivered .stopped) := by
  rw [execEvStopped] at h
  split at h
  · cases h
  refine ⟨not_not.mp ‹_›, ?_⟩
  split at h
  · cases h
  · cases h
    exact .inl ⟨‹_›, rfl⟩
  · cases h
    exact .inr ⟨_, ‹_›, rfl⟩

/-- A controller command completes with its entry, at a first line of that command (R62). -/
theorem exec_command_cases {i : Instr} {s t : State} (hi : i.cls = 1) (h : exec i s = .next t) :
    ∃ op a7 d8 ptr n q, q.op = some op ∧ q.needsRoom = false ∧ s.par.role = .controller ∧ s.eng.busy = false ∧
      operandRefusal s.par op ptr n = none ∧ t = s.entered op a7 d8 ptr n q := by
  cases i
  case sendbyte | sendbytes | readbyte | readbytes | regwrrd =>
    simp only [exec, execSendbyte, execSendbytes, execReadbyte, execReadbytes, execRegwrrd] at h
    obtain ⟨hr, hb, ho, rfl⟩ := enter_eq_next.mp h
    exact ⟨_, _, _, _, _, _, rfl, rfl, hr, hb, ho, rfl⟩
  all_goals cases hi

/-- The buffer bindings of the VRF are the same (R16, R17). -/
def SameBindings (v w : Vrf) : Prop :=
  w.wbase = v.wbase ∧ w.wsize = v.wsize ∧ w.wbound = v.wbound ∧
    w.rbase = v.rbase ∧ w.rsize = v.rsize ∧ w.rbound = v.rbound

theorem vrfStoreOp_frame {d : Byte} {s t : State} (h : vrfStoreOp d s = .ok t) :
    ∃ v m, SameBindings s.vrf v ∧ t = { s with vrf := v, mem := m } := by
  obtain ⟨-, -, ⟨-, -, rfl⟩ | ⟨-, -, -, rfl⟩ | ⟨-, -, rfl⟩⟩ := vrfStoreOp_cases h
  all_goals
    refine ⟨_, _, ?_, rfl⟩
    exact ⟨rfl, rfl, rfl, rfl, rfl, rfl⟩

theorem vrfRequestOp_frame {b : Byte} {s t : State} (h : vrfRequestOp s = .ok (b, t)) :
    ∃ v, SameBindings s.vrf v ∧ t = { s with vrf := v } := by
  obtain ⟨-, ⟨-, -, -, rfl⟩ | ⟨-, -, rfl⟩⟩ := vrfRequestOp_cases h
  all_goals
    refine ⟨_, ?_, rfl⟩
    exact ⟨rfl, rfl, rfl, rfl, rfl, rfl⟩

theorem vrfStopOp_frame (s : State) : ∃ v, SameBindings s.vrf v ∧ vrfStopOp s = { s with vrf := v } := by
  refine ⟨_, ?_, rfl⟩
  exact ⟨rfl, rfl, rfl, rfl, rfl, rfl⟩

/-- Settles O36: each operation's completed state, by what it completes with, differs from the state before in its own
fields only. -/
theorem onlyNamedOperationsWrite : Obligations.OnlyNamedOperationsWrite := by
  intro i s t h
  cases i
  case setwbuf =>
    obtain ⟨-, rfl⟩ := execSetwbuf_cases h
    simp [Instr.cls, SameMemory]
  case setrbuf =>
    obtain ⟨-, rfl⟩ := execSetrbuf_cases h
    simp [Instr.cls, SameMemory]
  case regw | regr | regs =>
    cases h
    simp [Instr.cls, SameMemory]
  case sendbyte | sendbytes | readbyte | readbytes | regwrrd =>
    obtain ⟨_, _, _, _, _, _, -, -, -, -, -, rfl⟩ := exec_command_cases rfl h
    simp [Instr.cls, SameMemory]
  case evWritten =>
    obtain ⟨-, ⟨-, u, hu, rfl⟩ | ⟨_, -, rfl⟩⟩ := execEvWritten_cases h
    · obtain ⟨v, m, hb, rfl⟩ := vrfStoreOp_frame hu
      simpa [Instr.cls, SameBindings, and_assoc] using hb
    · simp [Instr.cls]
  case evRequested =>
    obtain ⟨-, ⟨-, _, u, hu, rfl⟩ | ⟨_, -, rfl⟩⟩ := execEvRequested_cases h
    · obtain ⟨v, hb, rfl⟩ := vrfRequestOp_frame hu
      simpa [Instr.cls, SameMemory, SameBindings, and_assoc] using hb
    · simp [Instr.cls, SameMemory]
  case evStopped =>
    obtain ⟨-, ⟨-, rfl⟩ | ⟨_, -, rfl⟩⟩ := execEvStopped_cases h
    · obtain ⟨v, hb, hv⟩ := vrfStopOp_frame s
      simpa [Instr.cls, SameMemory, SameBindings, and_assoc, hv] using hb
    · simp [Instr.cls, SameMemory]
  case vrfStore =>
    obtain ⟨v, m, hb, rfl⟩ := vrfStoreOp_frame (ofExcept_eq_next.mp h)
    simpa [Instr.cls, SameBindings, and_assoc] using hb
  case vrfRequest =>
    obtain ⟨_, u, hu, rfl⟩ := execVrfRequest_cases h
    obtain ⟨v, hb, rfl⟩ := vrfRequestOp_frame hu
    simpa [Instr.cls, SameMemory, SameBindings, and_assoc] using hb
  case vrfStop =>
    cases h
    obtain ⟨v, hb, hv⟩ := vrfStopOp_frame s
    simpa [Instr.cls, SameMemory, SameBindings, and_assoc, hv] using hb

end Sys2Proof.Machine
end

section
/-! SUPPORT. What an engine line can do, said once (`engineLine_step`): at most one access of the port, possibly with a
store, then new working registers and the next position; or a return. The frame of R32, R48 and R82 is read off it. -/

namespace Sys2Proof.Machine

/-- What a line does outside the engine's registers, and the port accesses it makes (R66 to R71). -/
inductive LineAccess (s : State) : List PortAccess → State → Prop
  | none : LineAccess s [] s
  | writeAddr (v : Byte) : LineAccess s [.writeAddr v] (s.portWriteAddr v)
  | writeCnt (v : Half) (hv : v = 1#16 ∨ v = s.eng.work.n) : LineAccess s [.writeCnt v] (s.portWriteCnt v)
  | writeTxb (v : Byte) : LineAccess s [.writeTxb v] (s.portWriteTxb v)
  | writeRsen (hs : s.eng.seq = .regwrrd .L4) : LineAccess s [.writeRsen] s.portWriteRsen
  | start : LineAccess s [.start] s.portStart
  | startDraw : LineAccess s [.start] s.portStart.drew
  | poll : LineAccess s [.poll s.pollAnswer] s.polled
  | readRxb : LineAccess s [.readRxb s.rxbAnswer] s.rxbRead
  | store (hs : s.eng.seq ∈ storingLines) (ha : s.eng.work.ptr.toNat + s.eng.work.i < 2 ^ s.par.addrW) :
      LineAccess s [.readRxb s.rxbAnswer]
        { s.rxbRead with mem := s.mem.write (s.eng.work.ptr.toNat + s.eng.work.i) s.rxbAnswer }
  | readCnt : LineAccess s [.readCnt s.cntAnswer] s.cntRead

/-- The operands a command holds from its entry to its return (R21). -/
def SameOperands (w w' : Work) : Prop :=
  w'.op = w.op ∧ w'.a7 = w.a7 ∧ w'.d8 = w.d8 ∧ w'.ptr = w.ptr ∧ w'.n = w.n

theorem SameOperands.refl (w : Work) : SameOperands w w := ⟨rfl, rfl, rfl, rfl, rfl⟩

/-- There is room for one more byte: the index says so, or the line is one that is reached only with room. -/
def HasRoom (e : Eng) : Prop := e.work.i < e.work.n.toNat ∨ e.seq.needsRoom = true

/-- The working registers `w` and the position `q` that a line may leave (R66 to R71): a position of the same command,
and an index that counts up only with room. -/
structure WorkStep (e : Eng) (q : SeqPos) (w : Work) : Prop where
  operands : SameOperands e.work w
  command : q.op = e.seq.op
  index : w.i ≤ 1 ∨ w.i = e.work.i ∨ (w.i = e.work.i + 1 ∧ HasRoom e)
  room : q.needsRoom = true → w.i = e.work.i ∧ HasRoom e

/-- What a line can leave: the command goes on, or it returns a result (R63). -/
inductive LineStep (s t : State) : Prop
  | moved (accs : List PortAccess) (u : State) (q : SeqPos) (w : Work) (ha : LineAccess s accs u)
      (hw : WorkStep s.eng q w) (h : t = (u.setWork w).goto q)
  | returned (r : Result) (h : t = s.finish r)

/-- A line that leaves the working registers alone. -/
theorem LineStep.jump {s u : State} {accs : List PortAccess} {q : SeqPos} (ha : LineAccess s accs u)
    (hq : q.op = s.eng.seq.op) (hr : q.needsRoom = true → HasRoom s.eng) : LineStep s (u.goto q) := by
  have hu : u.setWork s.eng.work = u := by cases ha <;> rfl
  exact .moved accs u q s.eng.work ha ⟨.refl _, hq, .inr (.inl rfl), fun h => ⟨rfl, hr h⟩⟩ (by rw [hu])

/-- A line that sets working registers and goes on to a line that needs no room. -/
theorem LineStep.set {s u : State} {accs : List PortAccess} {q : SeqPos} {w : Work} (ha : LineAccess s accs u)
    (hq : q.op = s.eng.seq.op) (hr : q.needsRoom = false) (hw : SameOperands s.eng.work w)
    (hi : w.i ≤ 1 ∨ w.i = s.eng.work.i ∨ (w.i = s.eng.work.i + 1 ∧ HasRoom s.eng)) :
    LineStep s ((u.setWork w).goto q) :=
  .moved accs u q w ha ⟨hw, hq, hi, fun h => by simp [hr] at h⟩ rfl

/-- The count check before a return (R65). -/
theorem LineStep.check {s : State} {q : SeqPos} (hq : q.op = s.eng.seq.op) (hr : q.needsRoom = false) :
    LineStep s (s.checkCount.goto q) :=
  .set .readCnt hq hr ⟨rfl, rfl, rfl, rfl, rfl⟩ (.inr (.inl rfl))

/-- A received byte kept in `eng.rbyte` (R68, R71). -/
theorem LineStep.take {s : State} {q : SeqPos} (hq : q.op = s.eng.seq.op) (hr : q.needsRoom = false)
    (hi : s.eng.work.i = 0 ∨ HasRoom s.eng) : LineStep s ((takeByte s).goto q) := by
  refine .set .readRxb hq hr ⟨rfl, rfl, rfl, rfl, rfl⟩ ?_
  rcases hi with hi | hi
  · exact .inl (by simp [hi])
  · exact .inr (.inr ⟨rfl, hi⟩)

/-- A received byte stored in memory (R69 to R71). -/
theorem LineStep.stored {s u : State} {q : SeqPos} (hs : s.eng.seq ∈ storingLines) (hi : HasRoom s.eng)
    (hq : q.op = s.eng.seq.op) (hr : q.needsRoom = false) (h : storePayload s = .ok u) : LineStep s (u.goto q) := by
  obtain ⟨ha, rfl⟩ := storePayload_eq_ok.mp h
  exact .set (.store hs ha) hq hr ⟨rfl, rfl, rfl, rfl, rfl⟩ (.inr (.inr ⟨rfl, hi⟩))

/-- The drain (R71): D1 goes on only with room, D2 and D3 are reached only with room. -/
theorem drainLine_step {own : DrainLine → SeqPos} {back : SeqPos} {unload : State → Except Fault State} {d : DrainLine}
    {s t : State} (h : drainLine own back unload d s = .ok t) (hs : s.eng.seq = own d)
    (hown : ∀ d, (own d).op = s.eng.seq.op) (hroom : d ≠ .D1 → (own d).needsRoom = true)
    (hunload : d = .D3 → HasRoom s.eng → ∀ u, unload s = .ok u → LineStep s (u.goto back)) : LineStep s t := by
  have hr : d ≠ .D1 → HasRoom s.eng := fun hd => .inr (hs ▸ hroom hd)
  obtain ⟨rfl, hi, rfl⟩ | ⟨rfl, -, rfl⟩ | ⟨rfl, -, rfl⟩ | ⟨rfl, u, hu, rfl⟩ := drainLine_eq_ok h
  · exact .jump .none (hown _) fun _ => .inl hi
  · exact .jump .poll (by split <;> exact hown _) fun _ => hr nofun
  · exact .jump .none (hown _) fun _ => hr nofun
  · exact hunload rfl (hr nofun) u hu

theorem sendbyteLine_step {l : SendbyteLine} {s t : State} (hl : s.eng.seq = .sendbyte l)
    (h : sendbyteLine l s = .ok t) : LineStep s t := by
  have ho : some .sendbyte = s.eng.seq.op := by rw [hl]; rfl
  cases l <;> cases h
  case L1 => exact .jump (.writeAddr _) ho nofun
  case L2 => exact .jump (.writeCnt _ (.inl rfl)) ho nofun
  case L3 => exact .jump (.writeTxb _) ho nofun
  case L4 => exact .set .start ho rfl ⟨rfl, rfl, rfl, rfl, rfl⟩ (.inl le_rfl)
  case L5 => split <;> exact .jump .poll ho nofun
  case L6 => exact .check ho rfl
  case L7 => exact .returned _ rfl

theorem sendbytesLine_step {l : SendbytesLine} {s t : State} (hl : s.eng.seq = .sendbytes l)
    (h : sendbytesLine l s = .ok t) : LineStep s t := by
  have ho : some .sendbytes = s.eng.seq.op := by rw [hl]; rfl
  cases l
  case L1 => cases h; exact .jump (.writeAddr _) ho nofun
  case L2 => cases h; exact .jump (.writeCnt _ (.inr rfl)) ho nofun
  case L3 =>
    obtain ⟨u, hu, rfl⟩ := thenGoto_eq_ok.mp h
    obtain ⟨-, rfl⟩ := loadPayload_eq_ok.mp hu
    exact .jump (.writeTxb _) ho nofun
  case L4 => cases h; exact .set .start ho rfl ⟨rfl, rfl, rfl, rfl, rfl⟩ (.inl le_rfl)
  case L5 =>
    cases h
    split
    · exact .jump .poll ho nofun
    · split
      · rename_i hroom
        exact .jump .poll ho fun _ => .inl hroom.2
      · exact .jump .poll ho nofun
  case L6 =>
    simp only [sendbytesLine] at h
    split at h <;> cases h
    rename_i hu
    obtain ⟨-, rfl⟩ := loadPayload_eq_ok.mp hu
    exact .set (.writeTxb _) ho rfl ⟨rfl, rfl, rfl, rfl, rfl⟩ (.inr (.inr ⟨rfl, .inr (by rw [hl]; rfl)⟩))
  case L7 => cases h; exact .check ho rfl
  case L8 => cases h; exact .returned _ rfl

theorem readbyteLine_step {l : ReadbyteLine} {s t : State} (hl : s.eng.seq = .readbyte l)
    (h : readbyteLine l s = .ok t) : LineStep s t := by
  have ho : some .readbyte = s.eng.seq.op := by rw [hl]; rfl
  cases l
  case L1 => cases h; exact .jump (.writeAddr _) ho nofun
  case L2 => cases h; exact .jump (.writeCnt _ (.inl rfl)) ho nofun
  case L3 => cases h; exact .set .startDraw ho rfl ⟨rfl, rfl, rfl, rfl, rfl⟩ (.inl (Nat.zero_le 1))
  case L4 =>
    cases h
    split
    · exact .jump .poll ho nofun
    · split <;> exact .jump .poll ho nofun
  case L5 =>
    simp only [readbyteLine] at h
    split at h <;> cases h
    exact .take ho rfl (.inl (by omega))
  case L6 => cases h; split <;> exact .jump .none ho nofun
  case L7 => cases h; exact .returned _ rfl
  case drain d =>
    simp only [readbyteLine] at h
    refine drainLine_step h hl (fun _ => ho) (by cases d <;> simp [SeqPos.needsRoom]) fun hd hr u hu => ?_
    cases hu
    exact .take ho rfl (.inr hr)

theorem readbytesLine_step {l : ReadbytesLine} {s t : State} (hl : s.eng.seq = .readbytes l)
    (h : readbytesLine l s = .ok t) : LineStep s t := by
  have ho : some .readbytes = s.eng.seq.op := by rw [hl]; rfl
  cases l
  case L1 => cases h; exact .jump (.writeAddr _) ho nofun
  case L2 => cases h; exact .jump (.writeCnt _ (.inr rfl)) ho nofun
  case L3 => cases h; exact .set .start ho rfl ⟨rfl, rfl, rfl, rfl, rfl⟩ (.inl (Nat.zero_le 1))
  case L4 =>
    cases h
    split
    · exact .jump .poll ho nofun
    · split <;> exact .jump .poll ho nofun
  case L5 =>
    simp only [readbytesLine] at h
    split at h
    · cases h
    obtain ⟨u, hu, rfl⟩ := thenGoto_eq_ok.mp h
    exact .stored (by rw [hl]; decide) (.inl (by omega)) ho rfl hu
  case L6 => cases h; split <;> exact .jump .none ho nofun
  case L7 => cases h; exact .check ho rfl
  case L8 => cases h; exact .returned _ rfl
  case drain d =>
    simp only [readbytesLine] at h
    refine drainLine_step h hl (fun _ => ho) (by cases d <;> simp [SeqPos.needsRoom]) fun hd hr u hu => ?_
    subst hd
    exact .stored (by rw [hl]; decide) hr ho rfl hu

/-- After a poll REGWRRD goes to a line that needs no room (R70 L6). -/
theorem regwrrdBranch_needsRoom (st : Snapshot) (ph : Phase) :
    SeqPos.needsRoom (.regwrrd (regwrrdBranch st ph)) = false := by
  cases ph <;> simp only [regwrrdBranch] <;> split_ifs <;> rfl

theorem regwrrdLine_step {l : RegwrrdLine} {s t : State} (hl : s.eng.seq = .regwrrd l)
    (h : regwrrdLine l s = .ok t) : LineStep s t := by
  have ho : some .regwrrd = s.eng.seq.op := by rw [hl]; rfl
  cases l
  case L1 => cases h; exact .jump (.writeAddr _) ho nofun
  case L2 => cases h; exact .jump (.writeTxb _) ho nofun
  case L3 => cases h; exact .jump (.writeCnt _ (.inl rfl)) ho nofun
  case L4 => cases h; exact .jump (.writeRsen hl) ho nofun
  case L5 => cases h; exact .set .start ho rfl ⟨rfl, rfl, rfl, rfl, rfl⟩ (.inl (Nat.zero_le 1))
  case L6 => cases h; exact .jump .poll ho (by simp [regwrrdBranch_needsRoom])
  case L7 => cases h; exact .jump .readRxb ho nofun
  case L8 => cases h; exact .jump (.writeAddr _) ho nofun
  case L9 => cases h; exact .jump (.writeCnt _ (.inr rfl)) ho nofun
  case L10 => cases h; exact .set .start ho rfl ⟨rfl, rfl, rfl, rfl, rfl⟩ (.inr (.inl rfl))
  case L11 =>
    simp only [regwrrdLine] at h
    split at h
    · cases h
    obtain ⟨u, hu, rfl⟩ := thenGoto_eq_ok.mp h
    exact .stored (by rw [hl]; decide) (.inl (by omega)) ho rfl hu
  case L12 => cases h; exact .jump .none ho nofun
  case L13 => cases h; exact .check ho rfl
  case L14 => cases h; exact .returned _ rfl
  case drain d =>
    simp only [regwrrdLine] at h
    refine drainLine_step h hl (fun _ => ho) (by cases d <;> simp [SeqPos.needsRoom]) fun hd hr u hu => ?_
    subst hd
    exact .stored (by rw [hl]; decide) hr ho rfl hu

/-- Every line, and with `eng.seq` IDLE the state as it is, is one `LineStep`. -/
theorem engineLine_step {s t : State} (h : engineLine s = .ok t) : LineStep s t := by
  rw [engineLine] at h
  split at h
  · rename_i hl
    cases h
    exact .jump (q := s.eng.seq) .none rfl .inr
  · exact sendbyteLine_step ‹_› h
  · exact sendbytesLine_step ‹_› h
  · exact readbyteLine_step ‹_› h
  · exact readbytesLine_step ‹_› h
  · exact regwrrdLine_step ‹_› h

/-- What every access leaves alone, and what it does to the port's registers and the trace (R32). -/
theorem LineAccess.frame {s u : State} {accs : List PortAccess} (h : LineAccess s accs u) :
    u.par = s.par ∧ u.vrf = s.vrf ∧ u.eng = s.eng ∧ accs.length ≤ 1 ∧
      u.port = accs.foldl PortRegs.afterAccess s.port ∧
      u.hist = { s.hist with trace := s.hist.trace ++ accs } := by
  cases h <;> simp [PortRegs.afterAccess]

/-- An access leaves memory as it is, or one of the four storing lines writes the byte at `eng.ptr + eng.i`. -/
theorem LineAccess.mem_cases {s u : State} {accs : List PortAccess} (h : LineAccess s accs u) :
    u.mem = s.mem ∨
      (s.eng.seq ∈ storingLines ∧ s.eng.work.ptr.toNat + s.eng.work.i < 2 ^ s.par.addrW ∧
        u.mem = s.mem.write (s.eng.work.ptr.toNat + s.eng.work.i) s.rxbAnswer) := by
  cases h with
  | store hs ha => exact .inr ⟨hs, ha, rfl⟩
  | _ => exact .inl rfl

/-- RSEN is set by its own access only, which REGWRRD L4 makes; STOPF is never written (R27, R30, R82). -/
theorem LineAccess.rsen_stopf {s u : State} {accs : List PortAccess} (h : LineAccess s accs u) :
    (.writeRsen ∈ accs → s.eng.seq = .regwrrd .L4) ∧
      u.port.rsen = (if .writeRsen ∈ accs then true else s.port.rsen) ∧ u.port.stopf = s.port.stopf := by
  cases h with
  | writeRsen hs => simp [hs]
  | _ => simp

/-- REGWRRD L4 makes the access that writes RSEN (R70). -/
theorem engineLine_writeRsen {s t : State} (hq : s.eng.seq = .regwrrd .L4) (h : engineLine s = .ok t) :
    t.hist.trace = s.hist.trace ++ [.writeRsen] := by
  simp only [engineLine, hq, regwrrdLine] at h
  cases h
  rfl

theorem SameMemory.outside {s t : State} (h : SameMemory s t) (base len : Nat) : SameMemoryOutside s t base len :=
  fun a _ => h a

/-- Memory under a line (R36, R48): one byte at most, and by the storing lines only. -/
theorem LineAccess.memory {s u : State} {accs : List PortAccess} (h : LineAccess s accs u) (hwf : s.mem.wf = true) :
    SameMemoryOutside s u (s.eng.work.ptr.toNat + s.eng.work.i) 1 ∧ (s.eng.seq ∉ storingLines → SameMemory s u) := by
  obtain hm | ⟨hs, -, hm⟩ := h.mem_cases
  · have hsame : SameMemory s u := fun a => by rw [hm]
    exact ⟨hsame.outside _ _, fun _ => hsame⟩
  · refine ⟨fun a ha => ?_, fun hn => absurd hs hn⟩
    rw [hm]
    exact Memory.read_write_other hwf (by omega) _

/-- Settles O57: the frame of a line is the frame of its one access, of the new working registers, or of a return. -/
theorem engineLineFrame : Obligations.EngineLineFrame := by
  intro s t hwf h
  refine ⟨(engineLine_keeps h).1, ?_⟩
  have hrsen := fun hq => engineLine_writeRsen hq h
  obtain ⟨accs, u, q, w, ha, ⟨⟨hop, ha7, hd8, hptr, hn⟩, -, -, -⟩, rfl⟩ | ⟨r, rfl⟩ := engineLine_step h
  · obtain ⟨-, -, heng, hlen, hport, hhist⟩ := ha.frame
    obtain ⟨hout, hsame⟩ := ha.memory hwf
    obtain ⟨hL4, hset, hstopf⟩ := ha.rsen_stopf
    have hiff : .writeRsen ∈ accs ↔ s.eng.seq = .regwrrd .L4 := by
      refine ⟨hL4, fun hq => ?_⟩
      have haccs : accs = [.writeRsen] := by simpa [hhist] using hrsen hq
      simp [haccs]
    refine ⟨hout, hsame, ⟨accs, hlen, by simp [hhist], hport, hiff⟩, by simp [hset, hiff], hstopf, ?_⟩
    simp [hhist, heng, hop, ha7, hd8, hptr, hn]
  · have hL4 : s.eng.seq ≠ .regwrrd .L4 := fun hq => by simpa using hrsen hq
    have hmem : SameMemory s (s.finish r) := fun a => rfl
    exact ⟨hmem.outside _ _, fun _ => hmem, ⟨[], by simp, by simp, rfl, by simp [hL4]⟩, by simp [hL4], rfl, rfl, rfl,
      rfl, .inr ⟨rfl, rfl, r, rfl⟩⟩

end Sys2Proof.Machine
end

section
/-! SUPPORT. The invariant in its parts, by what they speak of: memory, the VRF, the engine. Each part is kept by each
operation that writes what it speaks of; a step keeps them all. -/

namespace Sys2Proof.Machine

/-- The part of `Inv` about memory: its canonical form, and that it lists only addresses that exist (R36). -/
def MemInv (p : Params) (m : Memory) : Prop := m.wf = true ∧ m.below (2 ^ p.addrW) = true

/-- The part of `Inv` about the VRF (R12 to R17, R44, R95). -/
structure VrfInv (p : Params) (v : Vrf) : Prop where
  wrange : v.wbound = true → v.wbase.toNat + v.wsize ≤ 2 ^ p.addrW
  wsize : v.wsize ≤ 65535
  rrange : v.rbound = true → v.rbase.toNat + v.rsize ≤ 2 ^ p.addrW
  rsize : v.rsize ≤ 65535
  cursor : v.cursor ≤ 65536
  readDir : v.hadRead = true ↔ v.dir = .read
  readCursor : v.hadRead = true → 1 ≤ v.cursor
  awaiting : v.dir = .none → v.isAddressByte = true
  consumed : p.mode = .addressPrefixed → v.dir = .write → v.isAddressByte = false
  flat : p.mode = .flatStream → v.isAddressByte = true

/-- The part of `Inv` about the engine (R19 to R21). -/
structure EngInv (p : Params) (e : Eng) : Prop where
  busy : e.busy = true ↔ e.seq ≠ .idle
  role : e.busy = true → p.role = .controller
  op : ∀ o, e.seq.op = some o → e.work.op = o
  length : e.busy = true → 1 ≤ e.work.n.toNat ∧ e.work.n.toNat < 2 ^ p.cntW
  payload : e.busy = true → hasPayload e.work.op = true → e.work.ptr.toNat + e.work.n.toNat ≤ 2 ^ p.addrW
  index : e.busy = true → e.work.i ≤ e.work.n.toNat
  room : e.seq.needsRoom = true → e.work.i < e.work.n.toNat

theorem inv_iff {s : State} :
    Inv s ↔ s.par.wf = true ∧ MemInv s.par s.mem ∧ s.port.cnt.toNat < 2 ^ s.par.cntW ∧ VrfInv s.par s.vrf ∧
      EngInv s.par s.eng := by
  constructor
  · intro h
    exact ⟨h.params, ⟨h.memory, h.memoryBelow⟩, h.count,
      ⟨h.wrange, h.wsize, h.rrange, h.rsize, h.cursor, h.readDir, h.readCursor, h.awaiting, h.consumed, h.flat⟩,
      ⟨h.busy, h.role, h.op, h.length, h.payload, h.index, h.room⟩⟩
  · rintro ⟨hp, ⟨hwf, hbelow⟩, hc, hv, he⟩
    exact ⟨hp, hwf, hbelow, hc, hv.wrange, hv.wsize, hv.rrange, hv.rsize, hv.cursor, hv.readDir, hv.readCursor,
      hv.awaiting, hv.consumed, hv.flat, he.busy, he.role, he.op, he.length, he.payload, he.index, he.room⟩

/-- The invariant speaks of the parameters, memory, CNT, the VRF and the engine only. -/
theorem Inv.congr {s t : State} (h : Inv s) (hp : t.par = s.par) (hm : t.mem = s.mem) (hc : t.port.cnt = s.port.cnt)
    (hv : t.vrf = s.vrf) (he : t.eng = s.eng) : Inv t := by
  rw [inv_iff] at h ⊢
  rwa [hp, hm, hc, hv, he]

theorem Params.wf_iff {p : Params} :
    p.wf = true ↔ (1 ≤ p.cntW ∧ p.cntW ≤ 16) ∧ (1 ≤ p.addrW ∧ p.addrW ≤ 16) ∧ MemInv p p.mem0 := by
  simp [Params.wf, MemInv, and_assoc]

/-! ### Memory and CNT -/

theorem MemInv.write {p : Params} {m : Memory} (h : MemInv p m) {a : Nat} (ha : a < 2 ^ p.addrW) (v : Byte) :
    MemInv p (m.write a v) :=
  ⟨Memory.wf_write h.1 a v, Memory.below_write h.2 ha v⟩

theorem one_lt_two_pow_cntW {p : Params} (hp : p.wf = true) : (1#16).toNat < 2 ^ p.cntW :=
  Nat.one_lt_two_pow (by have := (Params.wf_iff.mp hp).1; omega)

theorem cntTrunc_lt_of_wf {p : Params} (hp : p.wf = true) (c : Half) : (p.cntTrunc c).toNat < 2 ^ p.cntW :=
  cntTrunc_lt (Params.wf_iff.mp hp).1.2 c

/-! ### The VRF -/

theorem VrfInv.reset (p : Params) : VrfInv p Vrf.reset := by
  constructor <;> simp [Vrf.reset]

/-- SETWBUF's check is the range of the invariant (R83). -/
theorem VrfInv.bindWrite {p : Params} {v : Vrf} (h : VrfInv p v) {ptr n : Half} (hb : bufferInRange p ptr n = true) :
    VrfInv p { v with wbase := ptr, wsize := n.toNat, wbound := true } := by
  simp only [bufferInRange, Bool.and_eq_true, decide_eq_true_eq] at hb
  exact { h with wrange := fun _ => hb.2, wsize := by have := n.isLt; simp only; omega }

/-- SETRBUF's check is the range of the invariant (R84). -/
theorem VrfInv.bindRead {p : Params} {v : Vrf} (h : VrfInv p v) {ptr n : Half} (hb : bufferInRange p ptr n = true) :
    VrfInv p { v with rbase := ptr, rsize := n.toNat, rbound := true } := by
  simp only [bufferInRange, Bool.and_eq_true, decide_eq_true_eq] at hb
  exact { h with rrange := fun _ => hb.2, rsize := by have := n.isLt; simp only; omega }

/-- A written byte before any requested one leaves the direction WRITE; the cursor and the flag are what the case of
R85 makes them. -/
theorem VrfInv.written {p : Params} {v : Vrf} (h : VrfInv p v) (hd : v.dir ≠ .read) {c : Nat} {b : Bool}
    (hc : c ≤ 65536) (hpre : p.mode = .addressPrefixed → b = false) (hflat : p.mode = .flatStream → b = true) :
    VrfInv p { v with cursor := c, isAddressByte := b, dir := .write } := by
  have hr : v.hadRead ≠ true := fun hr => hd (h.readDir.mp hr)
  exact { h with
    cursor := hc
    readDir := by simp [hr]
    readCursor := fun hr' => absurd hr' hr
    awaiting := nofun
    consumed := fun hm _ => hpre hm
    flat := hflat }

/-- A requested byte leaves the direction READ and a cursor of at least 1 (R86, R93). -/
theorem VrfInv.requested {p : Params} {v : Vrf} (h : VrfInv p v) {c : Nat} (hlo : 1 ≤ c) (hhi : c ≤ 65536) :
    VrfInv p { v with cursor := c, hadRead := true, dir := .read } :=
  { h with
    cursor := hhi
    readDir := by simp
    readCursor := fun _ => hlo
    awaiting := nofun
    consumed := nofun }

theorem Vrf.stopCursor_le (v : Vrf) (m : Mode) : v.stopCursor m ≤ v.cursor := by
  cases m with
  | addressPrefixed =>
    simp only [Vrf.stopCursor]
    split <;> omega
  | flatStream => exact Nat.zero_le _

/-- A stop moves the cursor down at most, and the VRF awaits an address byte again (R87). -/
theorem VrfInv.stopped {p : Params} {v : Vrf} (h : VrfInv p v) : VrfInv p (v.stopped p.mode) :=
  { h with
    cursor := (v.stopCursor_le p.mode).trans h.cursor
    readDir := by simp [Vrf.stopped]
    readCursor := nofun
    awaiting := fun _ => rfl
    consumed := nofun
    flat := fun _ => rfl }

theorem Inv.after_vrfStoreOp {d : Byte} {s t : State} (hI : Inv s) (h : vrfStoreOp d s = .ok t) : Inv t := by
  obtain ⟨hp, hm, hc, hv, he⟩ := inv_iff.mp hI
  have hcur := hv.cursor
  have hsize := hv.wsize
  obtain ⟨-, hd, ⟨hmode, -, rfl⟩ | ⟨hdata, hlt, ha, rfl⟩ | ⟨hdata, -, rfl⟩⟩ := vrfStoreOp_cases h
  · have hb : d.toNat ≤ 65536 := by have := d.isLt; omega
    exact inv_iff.mpr ⟨hp, hm, hc, hv.written hd hb (fun _ => rfl) (by simp [hmode]), he⟩
  · exact inv_iff.mpr ⟨hp, hm.write ha d, hc, hv.written hd (by omega) (by simpa using hdata) hv.flat, he⟩
  · exact inv_iff.mpr ⟨hp, hm, hc, hv.written hd hcur (by simpa using hdata) hv.flat, he⟩

theorem Inv.after_vrfRequestOp {b : Byte} {s t : State} (hI : Inv s) (h : vrfRequestOp s = .ok (b, t)) : Inv t := by
  obtain ⟨hp, hm, hc, hv, he⟩ := inv_iff.mp hI
  have hsize := hv.rsize
  obtain ⟨-, ⟨hlt, -, -, rfl⟩ | ⟨-, -, rfl⟩⟩ := vrfRequestOp_cases h
  · exact inv_iff.mpr ⟨hp, hm, hc, hv.requested (by omega) (by omega), he⟩
  · exact inv_iff.mpr ⟨hp, hm, hc, hv.requested (by omega) (by omega), he⟩

theorem Inv.after_vrfStopOp {s : State} (hI : Inv s) : Inv (vrfStopOp s) := by
  obtain ⟨hp, hm, hc, hv, he⟩ := inv_iff.mp hI
  exact inv_iff.mpr ⟨hp, hm, hc, hv.stopped, he⟩

/-! ### The engine -/

/-- An engine without a command, whatever its working registers hold (R63). -/
theorem EngInv.idle (p : Params) (w : Work) : EngInv p { busy := false, seq := .idle, work := w } := by
  constructor <;> simp [SeqPos.op, SeqPos.needsRoom]

/-- The entry's checks give the invariant of a running command; a command without a payload has length 1 (R62). -/
theorem EngInv.entered {s : State} {op : CtrlOp} {a7 : BusAddr} {d8 : Byte} {ptr n : Half} {q : SeqPos}
    (hp : s.par.wf = true) (hrole : s.par.role = .controller) (hadm : operandRefusal s.par op ptr n = none)
    (hop : q.op = some op) (hroom : q.needsRoom = false) :
    EngInv s.par (s.entered op a7 d8 ptr n q).eng := by
  rw [operandRefusal_eq_none] at hadm
  have hone := one_lt_two_pow_cntW hp
  refine ⟨?_, fun _ => hrole, ?_, fun _ => ?_, fun _ hpay => ?_, fun _ => Nat.zero_le _, ?_⟩
  · have hq : q ≠ .idle := by rintro rfl; cases hop
    simp [hq]
  · intro o ho
    exact Option.some.inj (hop.symm.trans ho)
  · simp only [State.entered_eng, entryWork, lengthOf]
    split
    · rename_i hpay
      exact ⟨(hadm hpay).1, (hadm hpay).2.1⟩
    · exact ⟨le_rfl, hone⟩
  · simp only [State.entered_eng, entryWork, lengthOf] at hpay ⊢
    rw [if_pos hpay]
    exact (hadm hpay).2.2
  · simp [hroom]

theorem SeqPos.op_eq_none {q : SeqPos} : q.op = none ↔ q = .idle := by
  cases q <;> simp [SeqPos.op]

theorem EngInv.lt_of_hasRoom {p : Params} {e : Eng} (h : EngInv p e) (hr : HasRoom e) : e.work.i < e.work.n.toNat :=
  hr.elim id h.room

/-- The registers and the position a line leaves keep the engine's invariant. -/
theorem EngInv.step {p : Params} {e : Eng} (h : EngInv p e) {q : SeqPos} {w : Work} (hw : WorkStep e q w) :
    EngInv p { e with seq := q, work := w } := by
  obtain ⟨⟨hop, -, -, hptr, hn⟩, hq, hi, hroom⟩ := hw
  have hidle : q = .idle ↔ e.seq = .idle := by rw [← SeqPos.op_eq_none, hq, SeqPos.op_eq_none]
  refine ⟨h.busy.trans (not_congr hidle.symm), h.role, fun o ho => ?_, ?_, ?_, fun hb => ?_, fun hqr => ?_⟩
  · exact hop.trans (h.op o (hq.symm.trans ho))
  · simpa only [hn] using h.length
  · simpa only [hop, hptr, hn] using h.payload
  · have hlen := (h.length hb).1
    have hle := h.index hb
    simp only [hn]
    obtain hi | hi | ⟨hi, hr⟩ := hi
    · omega
    · omega
    · have := h.lt_of_hasRoom hr
      omega
  · obtain ⟨hi, hr⟩ := hroom hqr
    simpa only [hn, hi] using h.lt_of_hasRoom hr

theorem LineAccess.memInv {s u : State} {accs : List PortAccess} (ha : LineAccess s accs u) (h : MemInv s.par s.mem) :
    MemInv s.par u.mem := by
  obtain hm | ⟨-, hlt, hm⟩ := ha.mem_cases
  · rwa [hm]
  · rw [hm]
    exact h.write hlt _

/-- What a line writes to CNT, and what it reads from it, has `CNT_W` bits (R24). -/
theorem LineAccess.cnt_lt {s u : State} {accs : List PortAccess} (ha : LineAccess s accs u) (hp : s.par.wf = true)
    (hc : s.port.cnt.toNat < 2 ^ s.par.cntW) (hn : s.eng.work.n.toNat < 2 ^ s.par.cntW) :
    u.port.cnt.toNat < 2 ^ s.par.cntW := by
  cases ha with
  | writeCnt v hv =>
    obtain rfl | rfl := hv
    · exact one_lt_two_pow_cntW hp
    · exact hn
  | readCnt => exact cntTrunc_lt_of_wf hp _
  | _ => exact hc

theorem Inv.after_engineLine {s t : State} (hI : Inv s) (hb : s.eng.busy = true) (h : engineLine s = .ok t) :
    Inv t := by
  obtain ⟨hp, hm, hc, hv, he⟩ := inv_iff.mp hI
  obtain ⟨accs, u, q, w, ha, hw, rfl⟩ | ⟨r, rfl⟩ := engineLine_step h
  · obtain ⟨hpar, hvrf, heng, -⟩ := ha.frame
    rw [inv_iff]
    simp only [State.goto_par, State.setWork_par, hpar, State.goto_vrf, State.setWork_vrf, hvrf, State.goto_eng,
      State.setWork_eng, heng]
    exact ⟨hp, ha.memInv hm, ha.cnt_lt hp hc (he.length hb).2, hv, he.step hw⟩
  · exact inv_iff.mpr ⟨hp, hm, hc, hv, .idle _ _⟩

/-! ### Words, resets and steps -/

/-- Every instruction that completes keeps the invariant. -/
theorem Inv.after_exec {i : Instr} {s t : State} (hI : Inv s) (h : exec i s = .next t) : Inv t := by
  obtain ⟨hp, hm, hc, hv, he⟩ := inv_iff.mp hI
  cases i
  case setwbuf =>
    obtain ⟨hb, rfl⟩ := execSetwbuf_cases h
    exact inv_iff.mpr ⟨hp, hm, hc, hv.bindWrite hb, he⟩
  case setrbuf =>
    obtain ⟨hb, rfl⟩ := execSetrbuf_cases h
    exact inv_iff.mpr ⟨hp, hm, hc, hv.bindRead hb, he⟩
  case regw | regr | regs =>
    cases h
    exact hI.congr rfl rfl rfl rfl rfl
  case sendbyte | sendbytes | readbyte | readbytes | regwrrd =>
    obtain ⟨op, _, _, ptr, n, q, hop, hroom, hrole, -, hadm, rfl⟩ := exec_command_cases rfl h
    exact inv_iff.mpr ⟨hp, hm, hc, hv, .entered hp hrole hadm hop hroom⟩
  case evWritten =>
    obtain ⟨-, ⟨-, u, hu, rfl⟩ | ⟨_, -, rfl⟩⟩ := execEvWritten_cases h
    · exact (hI.after_vrfStoreOp hu).congr rfl rfl rfl rfl rfl
    · exact hI.congr rfl rfl rfl rfl rfl
  case evRequested =>
    obtain ⟨-, ⟨-, _, u, hu, rfl⟩ | ⟨_, -, rfl⟩⟩ := execEvRequested_cases h
    · exact (hI.after_vrfRequestOp hu).congr rfl rfl rfl rfl rfl
    · exact hI.congr rfl rfl rfl rfl rfl
  case evStopped =>
    obtain ⟨-, ⟨-, rfl⟩ | ⟨_, -, rfl⟩⟩ := execEvStopped_cases h
    · exact hI.after_vrfStopOp.congr rfl rfl rfl rfl rfl
    · exact hI.congr rfl rfl rfl rfl rfl
  case vrfStore => exact hI.after_vrfStoreOp (ofExcept_eq_next.mp h)
  case vrfRequest =>
    obtain ⟨_, u, hu, rfl⟩ := execVrfRequest_cases h
    exact (hI.after_vrfRequestOp hu).congr rfl rfl rfl rfl rfl
  case vrfStop =>
    cases h
    exact hI.after_vrfStopOp

/-- A device reset sets the invariant up again from the parameters alone (R123). -/
theorem inv_deviceReset {s : State} (hp : s.par.wf = true) : Inv s.deviceReset := by
  obtain ⟨-, -, hm⟩ := Params.wf_iff.mp hp
  exact inv_iff.mpr ⟨hp, hm, cntTrunc_lt_of_wf hp _, .reset _, .idle _ _⟩

/-- Every effect keeps the invariant; an engine line is one of a running command. -/
theorem Inv.after_effect {s t : State} (hI : Inv s) (h : Effect s t) : Inv t := by
  obtain ⟨hp, hm, hc, hv, he⟩ := inv_iff.mp hI
  cases h with
  | word i h => exact hI.after_exec h
  | line h =>
    by_cases hq : s.eng.seq = .idle
    · simp only [engineLine, hq] at h
      cases h
      exact hI
    · exact hI.after_engineLine (he.busy.mpr hq) h
  | reset h => rw [h]; exact inv_deviceReset hp
  | store a v ha h => rw [h]; exact inv_iff.mpr ⟨hp, hm.write ha v, hc, hv, he⟩
  | drive regs h => rw [h]; exact inv_iff.mpr ⟨hp, hm, cntTrunc_lt_of_wf hp _, hv, he⟩
  | outside e r h => rw [h]; exact hI.congr rfl rfl rfl rfl rfl

/-- Settles O59: the input a step uses up is no part of the invariant, and every effect keeps it. -/
theorem stepKeepsTheInvariant : Obligations.StepKeepsTheInvariant := by
  intro s t hI h
  obtain rfl | ⟨e, he⟩ := step_effect h
  · exact hI
  · exact (hI.congr (t := { s with env := e }) rfl rfl rfl rfl rfl).after_effect he

end Sys2Proof.Machine
end

section
/-! SUPPORT. The steps that run no word and no line: a read, a store, a change of the mask, the port's change of its
own registers (R22, R36, R46, R47); and the port while its delivery is masked. -/

namespace Sys2Proof.Machine

/-- A read of one VRF field is one step, and it sees the field before the step (R46). -/
theorem step_of_readVrf {s t : State} {f : VrfField} (h : nextMove s = some (.act (.readVrf f), t)) :
    step s = .next { t with hist := { t.hist with reads := s.hist.reads ++ [s.seen f] } } := by
  rw [step_of_move h]
  obtain ⟨e, rfl⟩ := nextMove_env h
  cases f <;> rfl

/-- A read of one byte is one step, and it sees the byte before the step (R36, R46). -/
theorem step_of_load {s t : State} {a : Half} (ha : a.toNat < 2 ^ s.par.addrW)
    (h : nextMove s = some (.act (.load a), t)) :
    step s = .next { t with hist := { t.hist with reads := s.hist.reads ++ [.byte a (s.mem.read a.toNat)] } } := by
  rw [step_of_move h]
  obtain ⟨e, rfl⟩ := nextMove_env h
  simp only [perform, runAction, State.readByte_of_lt (s := { s with env := e }) ha, State.saw]

/-- The port sets its own registers to what it drives, CNT to `CNT_W` bits of that (R22, R24). -/
theorem step_of_drive {s t : State} {regs : PortRegs} (h : nextMove s = some (.port (.drive regs), t)) :
    step s = .next { t with port := { regs with cnt := s.par.cntTrunc regs.cnt } } := by
  rw [step_of_move h]
  obtain ⟨e, rfl⟩ := nextMove_env h
  rfl

/-- Settles O15: each of these moves is performed on the state with its input used up, which holds what the state
before held. -/
theorem stepsWithoutAWord : Obligations.StepsWithoutAWord := by
  intro s t
  refine ⟨step_of_readVrf, step_of_readVrf, step_of_readVrf, step_of_move, step_of_move, fun regs h => ?_,
    fun a ha h => step_of_load ha h⟩
  exact ⟨_, step_of_drive h, cntTrunc_of_lt⟩

/-- A store to an address that exists changes its byte of memory and nothing else (R36). -/
theorem runAction_store {s : State} {a : Half} (v : Byte) (ha : a.toNat < 2 ^ s.par.addrW) :
    runAction (.store a v) s = .next { s with mem := s.mem.write a.toNat v } := by
  rw [runAction, State.writeByte_of_lt ha, ofExcept]

/-- A load from an address that exists records its byte (R36, R46). -/
theorem runAction_load {s : State} {a : Half} (ha : a.toNat < 2 ^ s.par.addrW) :
    runAction (.load a) s = .next (s.saw (.byte a (s.mem.read a.toNat))) := by
  simp only [runAction, State.readByte_of_lt ha]

/-- Settles O16: the store completes, and memory is in canonical form, where a read after a write sees the written
byte at its address and the old one elsewhere. -/
theorem storedByteIsRead : Obligations.StoredByteIsRead := by
  intro s a v hwf ha
  have hread := Memory.read_write_same hwf a.toNat v
  refine ⟨_, runAction_store v ha, fun r hr => ?_, rfl, Memory.wf_write hwf _ v, hread,
    fun b hb => Memory.read_write_other hwf hb v, _, runAction_load ha, ?_⟩
  · rw [step_of_move hr, perform, runAction_store v ha]
  · simp only [State.saw_hist, hread]

/-- While delivery is masked and an event is next in line, the move is not the port's, and the line stays (R47). -/
theorem nextMove_of_masked {s u : State} {m : Move} {cw : CmdWord} {rest : List PortAction}
    (hmask : s.env.masked = true) (hport : s.env.port = .deliver cw :: rest) (h : nextMove s = some (m, u)) :
    u.env.port = s.env.port ∧ ∀ x, m ≠ .port x := by
  obtain ⟨_, _, -, -, -, rfl, rfl⟩ | ⟨_, _, -, -, rfl, rfl⟩ | ⟨_, _, -, hx, -, hfree, -⟩ | ⟨-, -, rfl, rfl⟩ |
    ⟨-, rfl, rfl⟩ := nextMove_cases h
  case inr.inr.inl =>
    obtain ⟨rfl, -⟩ := List.cons.inj (hport.symm.trans hx)
    rw [hfree ⟨cw, rfl⟩] at hmask
    cases hmask
  all_goals exact ⟨rfl, nofun⟩

/-- A move that is no word and no reset leaves the VRF and the slots alone (R12, R18). -/
theorem perform_keeps_vrf_slots {m : Move} {s t : State} (hissue : ∀ cw, m ≠ .act (.issue cw))
    (hdeliver : ∀ cw, m ≠ .port (.deliver cw)) (hreset : m ≠ .reset) (h : perform m s = .next t) :
    t.vrf = s.vrf ∧ t.slots = s.slots := by
  cases m with
  | act x =>
    cases x with
    | issue cw => exact absurd rfl (hissue cw)
    | load a =>
      simp only [perform, runAction] at h
      split at h <;> cases h
      exact ⟨rfl, rfl⟩
    | store a v =>
      obtain ⟨-, rfl⟩ := State.writeByte_eq_ok.mp (ofExcept_eq_next.mp h)
      exact ⟨rfl, rfl⟩
    | readVrf f => cases h; exact ⟨rfl, rfl⟩
    | mask => cases h; exact ⟨rfl, rfl⟩
    | unmask => cases h; exact ⟨rfl, rfl⟩
  | port x =>
    cases x with
    | deliver cw => exact absurd rfl (hdeliver cw)
    | drive regs => cases h; exact ⟨rfl, rfl⟩
  | engine =>
    obtain ⟨-, hvrf, hslots, -⟩ := (engineLine_keeps (ofExcept_eq_next.mp h)).1
    exact ⟨hvrf, hslots⟩
  | reset => exact absurd rfl hreset

/-- Settles O10: masked, the port is shut out of the choice of the move; another agent's move leaves the line of
events, and unless it is a word or a reset also the VRF and the slots. -/
theorem maskedPortDeliversNoEvent : Obligations.MaskedPortDeliversNoEvent := by
  intro s t cw rest hmask hport h
  cases hm : nextMove s with
  | none =>
    rw [step_of_rest hm] at h
    rw [atRest_eq_next h]
    exact ⟨rfl, fun _ => ⟨rfl, rfl⟩⟩
  | some move =>
    obtain ⟨m, u⟩ := move
    rw [step_of_move hm] at h
    obtain ⟨hline, hnotPort⟩ := nextMove_of_masked hmask hport hm
    refine ⟨(perform_samePending h).2.1.trans hline, fun hno => ?_⟩
    obtain ⟨hissue, hreset⟩ := hno m u rfl
    have hkeep := perform_keeps_vrf_slots hissue (fun _ => hnotPort _) hreset h
    obtain ⟨e, rfl⟩ := nextMove_env hm
    exact hkeep

end Sys2Proof.Machine
end

section
/-! SUPPORT. When each case of the VRF's operations completes, and with what state (R85, R86): `vrfStoreOp_cases` and
`vrfRequestOp_cases` read the other way. -/

namespace Sys2Proof.Machine

/-- An address byte sets the cursor (R85). -/
theorem vrfStoreOp_of_address {s : State} (d : Byte) (hb : s.vrf.wbound = true) (hd : s.vrf.dir ≠ .read)
    (hm : s.par.mode = .addressPrefixed) (ha : s.vrf.isAddressByte = true) :
    vrfStoreOp d s =
      .ok { s with vrf := { s.vrf with cursor := d.toNat, isAddressByte := false, dir := .write } } := by
  rw [vrfStoreOp, if_neg (by simp [hb]), if_neg hd, if_pos ⟨hm, ha⟩]
  rfl

/-- A data byte below capacity is stored at the cursor (R85). -/
theorem vrfStoreOp_of_room {s : State} (d : Byte) (hb : s.vrf.wbound = true) (hd : s.vrf.dir ≠ .read)
    (hdata : ¬ (s.par.mode = .addressPrefixed ∧ s.vrf.isAddressByte = true)) (hc : s.vrf.cursor < s.vrf.wsize)
    (ha : s.vrf.wbase.toNat + s.vrf.cursor < 2 ^ s.par.addrW) :
    vrfStoreOp d s =
      .ok { s with vrf := { s.vrf with cursor := s.vrf.cursor + 1, dir := .write },
                   mem := s.mem.write (s.vrf.wbase.toNat + s.vrf.cursor) d } := by
  rw [vrfStoreOp, if_neg (by simp [hb]), if_neg hd, if_neg hdata, if_pos hc, State.writeByte_of_lt ha]
  rfl

/-- A data byte at or past capacity is discarded (R85). -/
theorem vrfStoreOp_of_full {s : State} (d : Byte) (hb : s.vrf.wbound = true) (hd : s.vrf.dir ≠ .read)
    (hdata : ¬ (s.par.mode = .addressPrefixed ∧ s.vrf.isAddressByte = true)) (hc : s.vrf.wsize ≤ s.vrf.cursor) :
    vrfStoreOp d s = .ok { s with vrf := { s.vrf with dir := .write } } := by
  rw [vrfStoreOp, if_neg (by simp [hb]), if_neg hd, if_neg hdata, if_neg (by omega)]
  rfl

/-- A request below the buffer's size answers the byte at the cursor (R86). -/
theorem vrfRequestOp_of_lt {s : State} (hb : s.vrf.rbound = true) (hc : s.vrf.cursor < s.vrf.rsize)
    (ha : s.vrf.rbase.toNat + s.vrf.cursor < 2 ^ s.par.addrW) :
    vrfRequestOp s =
      .ok (s.mem.read (s.vrf.rbase.toNat + s.vrf.cursor),
        { s with vrf := { s.vrf with cursor := s.vrf.cursor + 1, hadRead := true, dir := .read } }) := by
  rw [vrfRequestOp, if_neg (by simp [hb]), if_pos hc, State.readByte_of_lt ha]
  rfl

/-- A request at or past the buffer's size answers the sentinel and parks the cursor (R86). -/
theorem vrfRequestOp_of_full {s : State} (hb : s.vrf.rbound = true) (hc : s.vrf.rsize ≤ s.vrf.cursor) :
    vrfRequestOp s =
      .ok (0x00#8, { s with vrf := { s.vrf with cursor := s.vrf.rsize + 1, hadRead := true, dir := .read } }) := by
  rw [vrfRequestOp, if_neg (by simp [hb]), if_neg (by omega)]
  rfl

/-- The word VRF_STORE completes where its operation does. -/
theorem exec_vrfStore_of_ok {d : Byte} {s t : State} (h : vrfStoreOp d s = .ok t) : exec (.vrfStore d) s = .next t := by
  rw [exec, execVrfStore, h, ofExcept]

/-- The word VRF_REQUEST completes where its operation does, and returns the byte. -/
theorem exec_vrfRequest_of_ok {v : Byte} {s t : State} (h : vrfRequestOp s = .ok (v, t)) :
    exec .vrfRequest s = .next { t with hist := { t.hist with results := t.hist.results ++ [.vrfByte v] } } := by
  simp only [exec, execVrfRequest, h]

/-- A byte is data in flat-stream mode, and past the address byte (R85). -/
theorem not_addressByte {s : State} (h : s.par.mode = .flatStream ∨ s.vrf.isAddressByte = false) :
    ¬ (s.par.mode = .addressPrefixed ∧ s.vrf.isAddressByte = true) := by
  rintro ⟨hmode, hflag⟩
  simp [hmode, hflag] at h

/-- Settles O35: the byte is stored at the write address, which is the address that the request at `k` reads. -/
theorem aliasedBuffersReadBack : Obligations.AliasedBuffersReadBack := by
  intro s d k hwf hwb hrb hd hmode hc hk hw hr halias
  refine ⟨_, exec_vrfStore_of_ok (vrfStoreOp_of_room d hwb hd (not_addressByte hmode) hc (by omega)), _,
    exec_vrfRequest_of_ok (vrfRequestOp_of_lt hrb hk (Nat.lt_of_lt_of_le (Nat.add_lt_add_left hk _) hr)), ?_⟩
  simp only [halias, Memory.read_write_same hwf]

end Sys2Proof.Machine
end

section
/-! SUPPORT. What each event does with the VRF or a custom handler in its slot (R99 to R102), and that a registration
is seen by the next event, a new buffer by the next byte (R49, R131). -/

namespace Sys2Proof.Machine

theorem execAll_pair {i j : Instr} {s t u : State} (hi : exec i s = .next t) (hj : exec j t = .next u) :
    execAll [i, j] s = .next u := by
  simp only [execAll, hi, hj]

/-! ### The events by what their slot holds -/

theorem exec_evWritten_of_vrf {d : Byte} {s t : State} (hr : s.par.role = .target) (hs : s.slots.write = .vrf)
    (h : vrfStoreOp d s = .ok t) : exec (.evWritten d) s = .next (t.delivered .written) := by
  simp [exec, execEvWritten, hr, hs, h]

theorem exec_evRequested_of_vrf {v : Byte} {s t : State} (hr : s.par.role = .target) (hs : s.slots.read = .vrf)
    (h : vrfRequestOp s = .ok (v, t)) : exec .evRequested s = .next ((t.answer v).delivered .requested) := by
  simp [exec, execEvRequested, hr, hs, h]

theorem exec_evStopped_of_vrf {s : State} (hr : s.par.role = .target) (hs : s.slots.stop = .vrf) :
    exec .evStopped s = .next ((vrfStopOp s).portClearStop.delivered .stopped) := by
  simp [exec, execEvStopped, hr, hs]

theorem exec_evWritten_of_custom {hid : BitVec 6} {s : State} (d : Byte) (hr : s.par.role = .target)
    (hs : s.slots.write = .custom hid) : exec (.evWritten d) s = .next (s.delivered .written) := by
  simp [exec, execEvWritten, hr, hs]

theorem exec_evRequested_of_custom {hid : BitVec 6} {s : State} (hr : s.par.role = .target)
    (hs : s.slots.read = .custom hid) :
    exec .evRequested s = .next ((s.drew.answer s.drawAnswer).delivered .requested) := by
  simp [exec, execEvRequested, hr, hs]

theorem exec_evStopped_of_custom {hid : BitVec 6} {s : State} (hr : s.par.role = .target)
    (hs : s.slots.stop = .custom hid) : exec .evStopped s = .next (s.portClearStop.delivered .stopped) := by
  simp [exec, execEvStopped, hr, hs]

/-! ### The VRF's operations do not look at the slots -/

theorem vrfStoreOp_withSlots {d : Byte} {s t : State} (h : vrfStoreOp d s = .ok t) (x : Slots) :
    vrfStoreOp d { s with slots := x } = .ok { t with slots := x } := by
  obtain ⟨hb, hd, ⟨hm, ha, rfl⟩ | ⟨hdata, hc, ha, rfl⟩ | ⟨hdata, hc, rfl⟩⟩ := vrfStoreOp_cases h
  · exact vrfStoreOp_of_address d hb hd hm ha
  · exact vrfStoreOp_of_room d hb hd hdata hc ha
  · exact vrfStoreOp_of_full d hb hd hdata hc

theorem vrfRequestOp_withSlots {v : Byte} {s t : State} (h : vrfRequestOp s = .ok (v, t)) (x : Slots) :
    vrfRequestOp { s with slots := x } = .ok (v, { t with slots := x }) := by
  obtain ⟨hb, ⟨hc, ha, rfl, rfl⟩ | ⟨hc, rfl, rfl⟩⟩ := vrfRequestOp_cases h
  · exact vrfRequestOp_of_lt hb hc ha
  · exact vrfRequestOp_of_full hb hc

/-! ### A registration, then its event -/

/-- A custom handler just registered takes its event and leaves the VRF and memory alone (R102, log 13). -/
theorem customSlot_then_event {s : State} (d : Byte) (hr : s.par.role = .target) (hid : BitVec 6) :
    (∃ t, execAll [.regw .custom hid, .evWritten d] s = .next t ∧ t.vrf = s.vrf ∧ SameMemory s t ∧
      t.slots = { s.slots with write := .custom hid }) ∧
    (∃ t, execAll [.regr .custom hid, .evRequested] s = .next t ∧ t.vrf = s.vrf ∧ SameMemory s t ∧
      t.slots = { s.slots with read := .custom hid }) ∧
    (∃ t, execAll [.regs .custom hid, .evStopped] s = .next t ∧ t.vrf = s.vrf ∧ SameMemory s t ∧
      t.slots = { s.slots with stop := .custom hid }) := by
  refine ⟨⟨_, execAll_pair rfl (exec_evWritten_of_custom d hr rfl), ?_⟩,
    ⟨_, execAll_pair rfl (exec_evRequested_of_custom hr rfl), ?_⟩,
    ⟨_, execAll_pair rfl (exec_evStopped_of_custom hr rfl), ?_⟩⟩
  all_goals exact ⟨rfl, fun _ => rfl, rfl⟩

/-- The VRF just registered for written bytes stores the next one (R96, R99). -/
theorem regwVrf_then_evWritten {s u : State} {d : Byte} (hr : s.par.role = .target)
    (h : exec (.vrfStore d) s = .next u) :
    ∃ t, execAll [.regw .vrf 0#6, .evWritten d] s = .next t ∧ t.vrf = u.vrf ∧ t.mem = u.mem ∧
      t.slots = { s.slots with write := .vrf } :=
  have hop := vrfStoreOp_withSlots (ofExcept_eq_next.mp h) { s.slots with write := .vrf }
  ⟨_, execAll_pair rfl (exec_evWritten_of_vrf hr rfl hop), rfl, rfl, rfl⟩

/-- The VRF just registered for requests answers the next one with its byte (R97, R100). -/
theorem regrVrf_then_evRequested {s u : State} (hr : s.par.role = .target) (h : exec .vrfRequest s = .next u) :
    ∃ t v, execAll [.regr .vrf 0#6, .evRequested] s = .next t ∧ t.vrf = u.vrf ∧ t.mem = u.mem ∧
      t.slots = { s.slots with read := .vrf } ∧ u.hist.results = s.hist.results ++ [.vrfByte v] ∧
      t.hist.txLoads = s.hist.txLoads ++ [v] := by
  obtain ⟨v, t, ht, rfl⟩ := execVrfRequest_cases h
  have hop := vrfRequestOp_withSlots ht { s.slots with read := .vrf }
  obtain ⟨w, -, rfl⟩ := vrfRequestOp_frame ht
  exact ⟨_, v, execAll_pair rfl (exec_evRequested_of_vrf hr rfl hop), rfl, rfl, rfl, rfl, rfl⟩

/-- The VRF just registered for stops takes the next one (R98, R101). -/
theorem regsVrf_then_evStopped {s u : State} (hr : s.par.role = .target) (h : exec .vrfStop s = .next u) :
    ∃ t, execAll [.regs .vrf 0#6, .evStopped] s = .next t ∧ t.vrf = u.vrf ∧ t.mem = u.mem ∧
      t.slots = { s.slots with stop := .vrf } := by
  cases h
  exact ⟨_, execAll_pair rfl (exec_evStopped_of_vrf hr rfl), rfl, rfl, rfl⟩

/-! ### A new buffer, then a byte -/

/-- A buffer that holds a byte and ends inside memory passes the check of SETWBUF and SETRBUF (R44, R57). -/
theorem bufferInRange_of_pos {p : Params} {ptr n : Half} (hn : 0 < n.toNat) (h : ptr.toNat + n.toNat ≤ 2 ^ p.addrW) :
    bufferInRange p ptr n = true := by
  simp only [bufferInRange, Bool.and_eq_true, decide_eq_true_eq]
  omega

theorem exec_setwbuf_of_inRange {s : State} {ptr n : Half} (h : bufferInRange s.par ptr n = true) :
    exec (.setwbuf ptr n) s =
      .next { s with vrf := { s.vrf with wbase := ptr, wsize := n.toNat, wbound := true } } := by
  rw [exec, execSetwbuf, if_pos h]

theorem exec_setrbuf_of_inRange {s : State} {ptr n : Half} (h : bufferInRange s.par ptr n = true) :
    exec (.setrbuf ptr n) s =
      .next { s with vrf := { s.vrf with rbase := ptr, rsize := n.toNat, rbound := true } } := by
  rw [exec, execSetrbuf, if_pos h]

/-- A byte stored right after SETWBUF goes to the new buffer, at the cursor the old one left (R83, R85). -/
theorem setwbuf_then_vrfStore {s : State} (d : Byte) {ptr n : Half} (hrange : ptr.toNat + n.toNat ≤ 2 ^ s.par.addrW)
    (hc : s.vrf.cursor < n.toNat) (hd : s.vrf.dir ≠ .read)
    (hmode : s.par.mode = .flatStream ∨ s.vrf.isAddressByte = false) :
    ∃ t, execAll [.setwbuf ptr n, .vrfStore d] s = .next t ∧ t.vrf.cursor = s.vrf.cursor + 1 ∧
      t.mem = s.mem.write (ptr.toNat + s.vrf.cursor) d := by
  have ha : ptr.toNat + s.vrf.cursor < 2 ^ s.par.addrW := by omega
  exact ⟨_, execAll_pair (exec_setwbuf_of_inRange (bufferInRange_of_pos (by omega) hrange))
    (exec_vrfStore_of_ok (vrfStoreOp_of_room d rfl hd (not_addressByte hmode) hc ha)), rfl, rfl⟩

/-- A byte requested right after SETRBUF comes from the new buffer, at the cursor the old one left (R84, R86). -/
theorem setrbuf_then_vrfRequest {s : State} {ptr n : Half} (hrange : ptr.toNat + n.toNat ≤ 2 ^ s.par.addrW)
    (hc : s.vrf.cursor < n.toNat) :
    ∃ t, execAll [.setrbuf ptr n, .vrfRequest] s = .next t ∧ t.vrf.cursor = s.vrf.cursor + 1 ∧ SameMemory s t ∧
      t.hist.results = s.hist.results ++ [.vrfByte (s.mem.read (ptr.toNat + s.vrf.cursor))] := by
  have ha : ptr.toNat + s.vrf.cursor < 2 ^ s.par.addrW := by omega
  exact ⟨_, execAll_pair (exec_setrbuf_of_inRange (bufferInRange_of_pos (by omega) hrange))
    (exec_vrfRequest_of_ok (vrfRequestOp_of_lt rfl hc ha)), rfl, fun _ => rfl, rfl⟩

/-- Settles O43: an event takes its handler from the slot, and a byte its buffer from the binding, at the moment it is
run. -/
theorem reconfigurationIsSeenByTheNextEvent : Obligations.ReconfigurationIsSeenByTheNextEvent := by
  intro s d
  refine ⟨fun hr => ⟨customSlot_then_event d hr, fun u h => regwVrf_then_evWritten hr h,
    fun u h => regrVrf_then_evRequested hr h, fun u h => regsVrf_then_evStopped hr h⟩, fun ptr n hrange hc => ?_⟩
  exact ⟨setwbuf_then_vrfStore d hrange hc, setrbuf_then_vrfRequest hrange hc⟩

end Sys2Proof.Machine
end

section
/-! SUPPORT. Why an operation or a line faults (R111), and that under the invariant none of them addresses missing
memory (R36, R44, R92). -/

namespace Sys2Proof.Machine

/-! ### Words -/

theorem runWord_eq_fault {cw : CmdWord} {s : State} {f : Fault} :
    runWord cw s = .fault f ↔ ∃ i, decode cw = .ok i ∧ exec i s = .fault f := by
  rw [runWord]
  cases decode cw <;> simp

/-- The entry's one fault (R62). -/
theorem enter_fault {op : CtrlOp} {a7 : BusAddr} {d8 : Byte} {ptr n : Half} {first : SeqPos} {s : State} {f : Fault}
    (h : enter op a7 d8 ptr n first s = .fault f) : f = .concurrentCall := by
  rw [enter] at h
  split at h
  · cases h
  split at h
  · cases h
    rfl
  · split at h <;> cases h

theorem execVrfRequest_fault {s : State} {f : Fault} (h : execVrfRequest s = .fault f) :
    vrfRequestOp s = .error f := by
  rw [execVrfRequest] at h
  split at h <;> cases h
  exact ‹_›

/-- EV_WRITTEN faults on an empty slot, or as the VRF does (R99). -/
theorem execEvWritten_fault {d : Byte} {s : State} {f : Fault} (h : execEvWritten d s = .fault f) :
    f = .noHandler .written ∨ vrfStoreOp d s = .error f := by
  rw [execEvWritten] at h
  split at h
  · cases h
  split at h
  · cases h
    exact .inl rfl
  · split at h <;> cases h
    exact .inr ‹_›
  · cases h

/-- EV_REQUESTED faults on an empty slot, or as the VRF does (R100). -/
theorem execEvRequested_fault {s : State} {f : Fault} (h : execEvRequested s = .fault f) :
    f = .noHandler .requested ∨ vrfRequestOp s = .error f := by
  rw [execEvRequested] at h
  split at h
  · cases h
  split at h
  · cases h
    exact .inl rfl
  · split at h <;> cases h
    exact .inr ‹_›
  · cases h

/-- EV_STOPPED faults on an empty slot only (R101). -/
theorem execEvStopped_fault {s : State} {f : Fault} (h : execEvStopped s = .fault f) :
    f = .noHandler .stopped := by
  rw [execEvStopped] at h
  split at h
  · cases h
  split at h <;> cases h
  rfl

/-- Inside the bound write buffer every address exists (R44, R92). -/
theorem VrfInv.vrfStoreOp_ne_noSuchAddress {s : State} (hv : VrfInv s.par s.vrf) (d : Byte) (a : Nat) :
    vrfStoreOp d s ≠ .error (.noSuchAddress a) := by
  intro h
  obtain ⟨-, hf⟩ | ⟨-, -, hf⟩ | ⟨hb, hc, ha, -⟩ := vrfStoreOp_error h
  · cases hf
  · cases hf
  · have := hv.wrange hb
    omega

/-- Inside the bound read buffer every address exists (R44, R92). -/
theorem VrfInv.vrfRequestOp_ne_noSuchAddress {s : State} (hv : VrfInv s.par s.vrf) (a : Nat) :
    vrfRequestOp s ≠ .error (.noSuchAddress a) := by
  intro h
  obtain ⟨-, hf⟩ | ⟨hb, hc, ha, -⟩ := vrfRequestOp_error h
  · cases hf
  · have := hv.rrange hb
    omega

/-- No instruction addresses missing memory: the VRF's operations stay inside their buffers, an event faults as its
operation does, and the others touch no memory. -/
theorem VrfInv.exec_ne_noSuchAddress {s : State} (hv : VrfInv s.par s.vrf) (i : Instr) (a : Nat) :
    exec i s ≠ .fault (.noSuchAddress a) := by
  intro h
  cases i <;> simp only [exec] at h
  case setwbuf => rw [execSetwbuf] at h; split at h <;> cases h
  case setrbuf => rw [execSetrbuf] at h; split at h <;> cases h
  case regw | regr | regs | vrfStop => cases h
  case sendbyte | sendbytes | readbyte | readbytes | regwrrd => cases enter_fault h
  case vrfStore => exact hv.vrfStoreOp_ne_noSuchAddress _ a (ofExcept_eq_fault.mp h)
  case vrfRequest => exact hv.vrfRequestOp_ne_noSuchAddress a (execVrfRequest_fault h)
  case evWritten =>
    obtain hf | hop := execEvWritten_fault h
    · cases hf
    · exact hv.vrfStoreOp_ne_noSuchAddress _ a hop
  case evRequested =>
    obtain hf | hop := execEvRequested_fault h
    · cases hf
    · exact hv.vrfRequestOp_ne_noSuchAddress a hop
  case evStopped => cases execEvStopped_fault h

/-! ### Lines -/

/-- Why a line can fault (R66 to R71): a byte too many, or an access to a payload byte that does not exist. Which
byte a line accesses is the first one, or the one at the index where there is room for it. -/
inductive LineFault (s : State) : Fault → Prop
  | portOverrun (q : SeqPos) : LineFault s (.portOverrun q)
  | drainOverrun (q : SeqPos) : LineFault s (.drainOverrun q)
  | missing (op : CtrlOp) (k : Nat) (hop : s.eng.seq.op = some op) (hpay : hasPayload op = true)
      (hk : k = 0 ∨ (k = s.eng.work.i ∧ HasRoom s.eng)) (ha : 2 ^ s.par.addrW ≤ s.eng.work.ptr.toNat + k) :
      LineFault s (.noSuchAddress (s.eng.work.ptr.toNat + k))

theorem loadPayload_error {k : Nat} {s : State} {f : Fault} (h : loadPayload k s = .error f) :
    2 ^ s.par.addrW ≤ s.eng.work.ptr.toNat + k ∧ f = .noSuchAddress (s.eng.work.ptr.toNat + k) := by
  rw [loadPayload] at h
  split at h <;> cases h
  exact State.readByte_eq_error.mp ‹_›

theorem storePayload_error {s : State} {f : Fault} (h : storePayload s = .error f) :
    2 ^ s.par.addrW ≤ s.eng.work.ptr.toNat + s.eng.work.i ∧
      f = .noSuchAddress (s.eng.work.ptr.toNat + s.eng.work.i) := by
  rw [storePayload] at h
  split at h <;> cases h
  exact (State.writeByte_eq_error (s := s.rxbRead)).mp ‹_›

theorem thenGoto_eq_error {r : Except Fault State} {q : SeqPos} {f : Fault} :
    thenGoto r q = .error f ↔ r = .error f := by
  cases r <;> simp [thenGoto]

/-- A payload byte is unloaded only with room for it, so its address is one `LineFault` names. -/
theorem LineFault.stored {s : State} {op : CtrlOp} {f : Fault} (hop : s.eng.seq.op = some op)
    (hpay : hasPayload op = true) (hr : HasRoom s.eng) (h : storePayload s = .error f) : LineFault s f := by
  obtain ⟨ha, rfl⟩ := storePayload_error h
  exact .missing op _ hop hpay (.inr ⟨rfl, hr⟩) ha

theorem LineFault.loaded {s : State} {op : CtrlOp} {k : Nat} {f : Fault} (hop : s.eng.seq.op = some op)
    (hpay : hasPayload op = true) (hk : k = 0 ∨ (k = s.eng.work.i ∧ HasRoom s.eng))
    (h : loadPayload k s = .error f) : LineFault s f := by
  obtain ⟨ha, rfl⟩ := loadPayload_error h
  exact .missing op _ hop hpay hk ha

/-- The drain (R71): D1 faults on a full payload, D3 as its unload does, and D3 is reached only with room. -/
theorem drainLine_fault {own : DrainLine → SeqPos} {back : SeqPos} {unload : State → Except Fault State} {d : DrainLine}
    {s : State} {f : Fault} (h : drainLine own back unload d s = .error f)
    (hunload : d = .D3 → unload s = .error f → LineFault s f) : LineFault s f := by
  cases d with
  | D1 =>
    simp only [drainLine] at h
    split at h <;> cases h
    exact .drainOverrun _
  | D2 =>
    simp only [drainLine] at h
    split at h <;> cases h
  | D3 => exact hunload rfl (thenGoto_eq_error.mp h)

theorem sendbytesLine_fault {l : SendbytesLine} {s : State} {f : Fault} (hl : s.eng.seq = .sendbytes l)
    (h : sendbytesLine l s = .error f) : LineFault s f := by
  have ho : s.eng.seq.op = some .sendbytes := by rw [hl]; rfl
  cases l
  case L3 => exact .loaded ho rfl (.inl rfl) (thenGoto_eq_error.mp h)
  case L6 =>
    simp only [sendbytesLine] at h
    split at h <;> cases h
    exact .loaded ho rfl (.inr ⟨rfl, .inr (by rw [hl]; rfl)⟩) ‹_›
  all_goals cases h

theorem readbyteLine_fault {l : ReadbyteLine} {s : State} {f : Fault} (h : readbyteLine l s = .error f) :
    LineFault s f := by
  cases l
  case L5 =>
    simp only [readbyteLine] at h
    split at h <;> cases h
    exact .portOverrun _
  case drain =>
    simp only [readbyteLine] at h
    exact drainLine_fault h nofun
  all_goals cases h

theorem readbytesLine_fault {l : ReadbytesLine} {s : State} {f : Fault} (hl : s.eng.seq = .readbytes l)
    (h : readbytesLine l s = .error f) : LineFault s f := by
  have ho : s.eng.seq.op = some .readbytes := by rw [hl]; rfl
  cases l
  case L5 =>
    simp only [readbytesLine] at h
    split at h
    · cases h
      exact .portOverrun _
    · exact .stored ho rfl (.inl (by omega)) (thenGoto_eq_error.mp h)
  case drain =>
    simp only [readbytesLine] at h
    refine drainLine_fault h fun hd hu => ?_
    exact .stored ho rfl (.inr (by rw [hl, hd]; rfl)) hu
  all_goals cases h

theorem regwrrdLine_fault {l : RegwrrdLine} {s : State} {f : Fault} (hl : s.eng.seq = .regwrrd l)
    (h : regwrrdLine l s = .error f) : LineFault s f := by
  have ho : s.eng.seq.op = some .regwrrd := by rw [hl]; rfl
  cases l
  case L11 =>
    simp only [regwrrdLine] at h
    split at h
    · cases h
      exact .portOverrun _
    · exact .stored ho rfl (.inl (by omega)) (thenGoto_eq_error.mp h)
  case drain =>
    simp only [regwrrdLine] at h
    refine drainLine_fault h fun hd hu => ?_
    exact .stored ho rfl (.inr (by rw [hl, hd]; rfl)) hu
  all_goals cases h

/-- Every fault of a line is a `LineFault`; SENDBYTE's lines have none. -/
theorem engineLine_fault {s : State} {f : Fault} (h : engineLine s = .error f) : LineFault s f := by
  rw [engineLine] at h
  split at h
  · cases h
  · rename_i l _
    cases l <;> cases h
  · exact sendbytesLine_fault ‹_› h
  · exact readbyteLine_fault h
  · exact readbytesLine_fault ‹_› h
  · exact regwrrdLine_fault ‹_› h

/-- The payload of a running command lies inside memory, and a line stays inside the payload (R44, R62). -/
theorem EngInv.engineLine_ne_noSuchAddress {s : State} (he : EngInv s.par s.eng) (a : Nat) :
    engineLine s ≠ .error (.noSuchAddress a) := by
  intro h
  cases engineLine_fault h with
  | missing op k hop hpay hk ha =>
    have hb : s.eng.busy = true := he.busy.mpr fun hq => by rw [hq] at hop; cases hop
    have hrange := he.payload hb (by rwa [he.op op hop])
    have hlen := (he.length hb).1
    have hlt : k < s.eng.work.n.toNat := by
      obtain rfl | ⟨rfl, hr⟩ := hk
      · exact hlen
      · exact he.lt_of_hasRoom hr
    omega

/-! ### Moves -/

/-- Under the invariant a move that addresses missing memory is a caller's load or store. -/
theorem Inv.perform_noSuchAddress {m : Move} {s : State} {a : Nat} (hI : Inv s)
    (h : perform m s = .fault (.noSuchAddress a)) : (∃ b, m = .act (.load b)) ∨ ∃ b v, m = .act (.store b v) := by
  obtain ⟨-, -, -, hv, he⟩ := inv_iff.mp hI
  have word : ∀ {cw}, runWord cw s ≠ .fault (.noSuchAddress a) := fun hw => by
    obtain ⟨i, -, hi⟩ := runWord_eq_fault.mp hw
    exact hv.exec_ne_noSuchAddress i a hi
  cases m with
  | act x =>
    cases x with
    | issue cw => exact absurd h word
    | load b => exact .inl ⟨b, rfl⟩
    | store b v => exact .inr ⟨b, v, rfl⟩
    | readVrf | mask | unmask => cases h
  | port x =>
    cases x with
    | deliver cw => exact absurd h word
    | drive regs => cases h
  | engine => exact absurd (ofExcept_eq_fault.mp h) (he.engineLine_ne_noSuchAddress a)
  | reset => cases h

/-- Settles O60: with nothing recorded a fault comes from a move, made in a state of the invariant too. -/
theorem noCommandAddressesMissingMemory : Obligations.NoCommandAddressesMissingMemory := by
  intro s a hI h hout
  cases hm : nextMove s with
  | none =>
    rw [step_of_rest hm, atRest, hout] at h
    cases h
  | some move =>
    obtain ⟨m, u⟩ := move
    rw [step_of_move hm] at h
    obtain ⟨e, rfl⟩ := nextMove_env hm
    obtain ⟨b, rfl⟩ | ⟨b, v, rfl⟩ := (hI.congr (t := { s with env := e }) rfl rfl rfl rfl rfl).perform_noSuchAddress h
    · exact ⟨_, .inl ⟨b, rfl⟩⟩
    · exact ⟨_, .inr ⟨b, v, rfl⟩⟩

end Sys2Proof.Machine
end

section
/-! SUPPORT. The decoder by the fields of R50: a row's mask check says that no reserved or unused field is set (R51), and
every word's decoding is read off its row and its fields (R53, R54). -/

namespace Sys2Proof

/-! ### The fields of two words -/

@[simp] theorem fieldOpc_and (v w : CmdWord) : fieldOpc (v &&& w) = fieldOpc v &&& fieldOpc w := BitVec.extractLsb'_and
@[simp] theorem fieldA7_and (v w : CmdWord) : fieldA7 (v &&& w) = fieldA7 v &&& fieldA7 w := BitVec.extractLsb'_and
@[simp] theorem fieldD8_and (v w : CmdWord) : fieldD8 (v &&& w) = fieldD8 v &&& fieldD8 w := BitVec.extractLsb'_and
@[simp] theorem fieldPtr_and (v w : CmdWord) : fieldPtr (v &&& w) = fieldPtr v &&& fieldPtr w := BitVec.extractLsb'_and
@[simp] theorem fieldN_and (v w : CmdWord) : fieldN (v &&& w) = fieldN v &&& fieldN w := BitVec.extractLsb'_and

/-- A mask of a field that a format leaves unused checks that it is zero, one of a field in use checks nothing. -/
theorem and_unusedMask_eq_zero {n : Nat} (x : BitVec n) (used : Bool) :
    x &&& (if used then 0#n else BitVec.allOnes n) = 0#n ↔ (used = false → x = 0#n) := by
  cases used <;> simp

/-- Two words that agree in a field agree in each of its bits. -/
theorem getLsbD_eq_of_extractLsb'_eq {v w : CmdWord} {start len k : Nat}
    (h : v.extractLsb' start len = w.extractLsb' start len) (hs : start ≤ k) (hk : k < start + len) :
    v.getLsbD k = w.getLsbD k := by
  have hbit := congrArg (fun x => x.getLsbD (k - start)) h
  simpa [Nat.sub_lt_left_of_lt_add hs hk, Nat.add_sub_cancel' hs] using hbit

/-- The fields of R50 and the two reserved ones make up the word. -/
theorem cmdWord_eq_iff {v w : CmdWord} :
    v = w ↔ v.extractLsb' 55 1 = w.extractLsb' 55 1 ∧ v.extractLsb' 0 8 = w.extractLsb' 0 8 ∧
      fieldOpc v = fieldOpc w ∧ fieldA7 v = fieldA7 w ∧ fieldD8 v = fieldD8 w ∧ fieldPtr v = fieldPtr w ∧
      fieldN v = fieldN w := by
  refine ⟨fun h => by simp [h], fun ⟨hrsv0, hrsv1, hopc, ha7, hd8, hptr, hn⟩ => ?_⟩
  refine BitVec.eq_of_getLsbD_eq fun k hk => ?_
  obtain h | h | h | h | h | h | h : k < 8 ∨ (8 ≤ k ∧ k < 24) ∨ (24 ≤ k ∧ k < 40) ∨ (40 ≤ k ∧ k < 48) ∨
      (48 ≤ k ∧ k < 55) ∨ k = 55 ∨ 56 ≤ k := by omega
  · exact getLsbD_eq_of_extractLsb'_eq hrsv1 (by omega) (by omega)
  · exact getLsbD_eq_of_extractLsb'_eq hn (by omega) (by omega)
  · exact getLsbD_eq_of_extractLsb'_eq hptr (by omega) (by omega)
  · exact getLsbD_eq_of_extractLsb'_eq hd8 (by omega) (by omega)
  · exact getLsbD_eq_of_extractLsb'_eq ha7 (by omega) (by omega)
  · exact getLsbD_eq_of_extractLsb'_eq hrsv0 (by omega) (by omega)
  · exact getLsbD_eq_of_extractLsb'_eq hopc (by omega) (by omega)

theorem not_dirtyFields_iff {f : Format} {cw : CmdWord} :
    ¬ dirtyFields f cw ↔ cw.extractLsb' 55 1 = 0#1 ∧ cw.extractLsb' 0 8 = 0#8 ∧
      (f.usesA7 = false → fieldA7 cw = 0#7) ∧ (f.usesD8 = false → fieldD8 cw = 0#8) ∧
      (f.usesPtrN = false → fieldPtr cw = 0#16 ∧ fieldN cw = 0#16) := by
  simp only [dirtyFields, not_or, not_and, not_not]

/-- A word with no dirty field is assembled from the fields its format uses, all others zero (R51). -/
theorem assembleWord_of_clean {f : Format} {cw : CmdWord} (h : ¬ dirtyFields f cw) :
    assembleWord (fieldOpc cw) (if f.usesA7 then fieldA7 cw else 0#7) (if f.usesD8 then fieldD8 cw else 0#8)
      (if f.usesPtrN then fieldPtr cw else 0#16) (if f.usesPtrN then fieldN cw else 0#16) = cw := by
  obtain ⟨hrsv0, hrsv1, ha7, hd8, hptrn⟩ := not_dirtyFields_iff.mp h
  rw [ite_eq_left_iff.mpr fun hu => (ha7 (eq_false_of_ne_true hu)).symm,
    ite_eq_left_iff.mpr fun hu => (hd8 (eq_false_of_ne_true hu)).symm,
    ite_eq_left_iff.mpr fun hu => (hptrn (eq_false_of_ne_true hu)).1.symm,
    ite_eq_left_iff.mpr fun hu => (hptrn (eq_false_of_ne_true hu)).2.symm, assembleWord_fields hrsv0 hrsv1]

/-! ### The opcode map -/

/-- The masks of the map cover the opcode, the reserved fields and the fields the format does not use (R51, R52). -/
theorem opcodeTable_mask : ∀ row ∈ opcodeTable,
    row.mask.extractLsb' 55 1 = BitVec.allOnes 1 ∧ row.mask.extractLsb' 0 8 = BitVec.allOnes 8 ∧
    fieldOpc row.mask = BitVec.allOnes 8 ∧
    fieldA7 row.mask = (if row.format.usesA7 then 0#7 else BitVec.allOnes 7) ∧
    fieldD8 row.mask = (if row.format.usesD8 then 0#8 else BitVec.allOnes 8) ∧
    fieldPtr row.mask = (if row.format.usesPtrN then 0#16 else BitVec.allOnes 16) ∧
    fieldN row.mask = (if row.format.usesPtrN then 0#16 else BitVec.allOnes 16) := by
  decide

/-- The match of a row is its opcode over zero fields (R52). -/
theorem opcodeTable_mtch : ∀ row ∈ opcodeTable,
    row.mtch.extractLsb' 55 1 = 0#1 ∧ row.mtch.extractLsb' 0 8 = 0#8 ∧ fieldOpc row.mtch = row.opc ∧
    fieldA7 row.mtch = 0#7 ∧ fieldD8 row.mtch = 0#8 ∧ fieldPtr row.mtch = 0#16 ∧ fieldN row.mtch = 0#16 := by
  decide

/-- The word of what a row builds: its opcode and the fields its format uses, D8 rebuilt from HSEL and HID. -/
theorem encode_build (cw : CmdWord) : ∀ row ∈ opcodeTable,
    encode (row.build cw) =
      assembleWord row.opc (if row.format.usesA7 then fieldA7 cw else 0#7)
        (if row.format = .CH then handlerByte (hselOf cw) (fieldHid cw)
          else if row.format.usesD8 then fieldD8 cw else 0#8)
        (if row.format.usesPtrN then fieldPtr cw else 0#16) (if row.format.usesPtrN then fieldN cw else 0#16) := by
  simp only [opcodeTable, List.cons_append, List.nil_append, List.forall_mem_cons]
  exact ⟨rfl, rfl, rfl, rfl, rfl, rfl, rfl, rfl, rfl, rfl, rfl, rfl, rfl, rfl, rfl, rfl, nofun⟩

/-- What a row builds is well formed but for the handler id of format CH (R54). -/
theorem wellFormed_build (cw : CmdWord) : ∀ row ∈ opcodeTable,
    (row.build cw).wellFormed = (if row.format = .CH then (hselOf cw).okWith (fieldHid cw) else true) := by
  simp only [opcodeTable, List.cons_append, List.nil_append, List.forall_mem_cons]
  exact ⟨rfl, rfl, rfl, rfl, rfl, rfl, rfl, rfl, rfl, rfl, rfl, rfl, rfl, rfl, rfl, rfl, nofun⟩

/-- The map finds each opcode of R52 a row of its format. -/
theorem opcodeTable_find?_format : ∀ p ∈ admittedOpcodes,
    (opcodeTable.find? fun row => row.opc == p.1).map Row.format = some p.2 := by
  decide

theorem opcodeTable_subset_admitted : ∀ row ∈ opcodeTable, (row.opc, row.format) ∈ admittedOpcodes := by
  decide

theorem rowOf_eq_some {cw : CmdWord} {row : Row} (h : rowOf cw = some row) :
    row ∈ opcodeTable ∧ row.opc = fieldOpc cw :=
  ⟨List.mem_of_find?_eq_some h, by simpa using List.find?_some h⟩

/-- A word whose opcode R52 does not list has no row. -/
theorem rowOf_eq_none {cw : CmdWord} (h : ∀ f, (fieldOpc cw, f) ∉ admittedOpcodes) : rowOf cw = none := by
  cases hrow : rowOf cw with
  | none => rfl
  | some row =>
    obtain ⟨hmem, hopc⟩ := rowOf_eq_some hrow
    exact absurd (hopc ▸ opcodeTable_subset_admitted row hmem) (h row.format)

/-- A row's mask check is R51's: no reserved field and no field its format leaves unused is set. -/
theorem mask_eq_mtch_iff {cw : CmdWord} {row : Row} (h : rowOf cw = some row) :
    cw &&& row.mask = row.mtch ↔ ¬ dirtyFields row.format cw := by
  obtain ⟨hmem, hopc⟩ := rowOf_eq_some h
  obtain ⟨m0, m1, mopc, ma7, md8, mptr, mn⟩ := opcodeTable_mask row hmem
  obtain ⟨t0, t1, topc, ta7, td8, tptr, tn⟩ := opcodeTable_mtch row hmem
  rw [cmdWord_eq_iff, not_dirtyFields_iff]
  simp only [BitVec.extractLsb'_and, fieldOpc_and, fieldA7_and, fieldD8_and, fieldPtr_and, fieldN_and, m0, m1, mopc,
    ma7, md8, mptr, mn, t0, t1, topc, ta7, td8, tptr, tn, BitVec.and_allOnes, and_unusedMask_eq_zero, hopc, true_and,
    imp_and]

/-! ### Decoding -/

/-- Format CH names a handler that R54 admits: VRF with handler id 0, or custom. -/
def HandlerAdmitted (cw : CmdWord) : Prop := fieldHsel cw = 0b01#2 ∧ fieldHid cw = 0#6 ∨ fieldHsel cw = 0b10#2

/-- What R54 admits is what the two handler checks of R53 leave. -/
theorem handlerAdmitted_iff {cw : CmdWord} :
    HandlerAdmitted cw ↔ ¬ (fieldHsel cw = 0b00#2 ∨ fieldHsel cw = 0b11#2) ∧
      ¬ (fieldHsel cw = 0b01#2 ∧ fieldHid cw ≠ 0#6) := by
  have hsel : ∀ b : BitVec 2, b = 0b00#2 ∨ b = 0b01#2 ∨ b = 0b10#2 ∨ b = 0b11#2 := by decide
  rw [HandlerAdmitted]
  obtain h | h | h | h := hsel (fieldHsel cw) <;> simp [h]

theorem okWith_of_handlerAdmitted {cw : CmdWord} (h : HandlerAdmitted cw) :
    (hselOf cw).okWith (fieldHid cw) = true := by
  obtain ⟨hsel, hid⟩ | hsel := h
  · simp [hselOf, hsel, hid, HSel.okWith]
  · simp [hselOf, hsel, HSel.okWith]

theorem decode_of_row {cw : CmdWord} {row : Row} (h : rowOf cw = some row) : decode cw = decodeRow row cw := by
  rw [decode, h]

theorem decode_of_noRow {cw : CmdWord} (h : rowOf cw = none) : decode cw = .error .reservedOpcode := by
  rw [decode, h]

/-- A word with a row decodes exactly when the checks of R53 pass, and to what the row builds. -/
theorem decodeRow_eq_ok {row : Row} {cw : CmdWord} {i : Instr} :
    decodeRow row cw = .ok i ↔
      cw &&& row.mask = row.mtch ∧ (row.format = .CH → HandlerAdmitted cw) ∧ row.build cw = i := by
  rw [decodeRow, handlerAdmitted_iff]
  split_ifs with hmask hreserved hid
  · simp [hmask]
  · simp [hreserved]
  · simp [hid]
  · simp only [Except.ok.injEq, not_not.mp hmask, true_and]
    refine (and_iff_right fun hf => ⟨?_, ?_⟩).symm
    · exact fun hs => hreserved ⟨hf, hs⟩
    · exact fun hs => hid ⟨hf, hs⟩

theorem decodeRow_of_mask_ne {row : Row} {cw : CmdWord} (h : cw &&& row.mask ≠ row.mtch) :
    decodeRow row cw = .error .reservedField := by
  rw [decodeRow, if_pos h]

theorem decodeRow_of_reservedHandler {row : Row} {cw : CmdWord} (h : cw &&& row.mask = row.mtch)
    (hf : row.format = .CH) (hs : fieldHsel cw = 0b00#2 ∨ fieldHsel cw = 0b11#2) :
    decodeRow row cw = .error .reservedHandlerSelect := by
  rw [decodeRow, if_neg (not_not.mpr h), if_pos ⟨hf, hs⟩]

theorem decodeRow_of_vrfWithId {row : Row} {cw : CmdWord} (h : cw &&& row.mask = row.mtch)
    (hf : row.format = .CH) (hs : fieldHsel cw = 0b01#2) (hid : fieldHid cw ≠ 0#6) :
    decodeRow row cw = .error .reservedField := by
  rw [decodeRow, if_neg (not_not.mpr h), if_neg (by simp [hs]), if_pos ⟨hf, hs, hid⟩]

/-! ### The round trip -/

/-- The word of every well-formed instruction finds a row that builds it back. -/
theorem rowMatches (i : Instr) : Laws.RowMatches.Statement i := by
  cases i with
  | setwbuf ptr n => exact Laws.RowMatches.setwbuf ptr n
  | setrbuf ptr n => exact Laws.RowMatches.setrbuf ptr n
  | regw hsel hid => exact Laws.RowMatches.regw hsel hid
  | regr hsel hid => exact Laws.RowMatches.regr hsel hid
  | regs hsel hid => exact Laws.RowMatches.regs hsel hid
  | sendbyte a7 d8 => exact Laws.RowMatches.sendbyte a7 d8
  | sendbytes a7 ptr n => exact Laws.RowMatches.sendbytes a7 ptr n
  | readbyte a7 => exact Laws.RowMatches.readbyte a7
  | readbytes a7 ptr n => exact Laws.RowMatches.readbytes a7 ptr n
  | regwrrd a7 d8 ptr n => exact Laws.RowMatches.regwrrd a7 d8 ptr n
  | evWritten d8 => exact Laws.RowMatches.evWritten d8
  | evRequested => exact Laws.RowMatches.evRequested
  | evStopped => exact Laws.RowMatches.evStopped
  | vrfStore d8 => exact Laws.RowMatches.vrfStore d8
  | vrfRequest => exact Laws.RowMatches.vrfRequest
  | vrfStop => exact Laws.RowMatches.vrfStop

theorem decode_encode {i : Instr} (h : i.wellFormed = true) : decode (encode i) = .ok i := by
  obtain ⟨row, hrow, hmask, hbuild, hsel⟩ := rowMatches i h
  rw [decode_of_row hrow]
  exact decodeRow_eq_ok.mpr ⟨hmask, hsel, hbuild⟩

/-- What a word decodes to is well formed, and the word is its one encoding. -/
theorem encode_of_decode {cw : CmdWord} {i : Instr} (h : decode cw = .ok i) : i.wellFormed = true ∧ encode i = cw := by
  cases hrow : rowOf cw with
  | none => rw [decode_of_noRow hrow] at h; cases h
  | some row =>
    rw [decode_of_row hrow] at h
    obtain ⟨hmask, hsel, rfl⟩ := decodeRow_eq_ok.mp h
    obtain ⟨hmem, hopc⟩ := rowOf_eq_some hrow
    have hclean := assembleWord_of_clean ((mask_eq_mtch_iff hrow).mp hmask)
    rw [wellFormed_build cw row hmem, encode_build cw row hmem, hopc]
    by_cases hf : row.format = .CH
    · have hbyte : handlerByte (hselOf cw) (fieldHid cw) = fieldD8 cw := handlerByte_fields ((hsel hf).imp And.left id)
      rw [if_pos hf, if_pos hf, hbyte]
      refine ⟨okWith_of_handlerAdmitted (hsel hf), ?_⟩
      simpa [hf, Format.usesD8] using hclean
    · rw [if_neg hf, if_neg hf]
      exact ⟨rfl, hclean⟩

theorem decode_of_encode_eq {i : Instr} {cw : CmdWord} (hw : i.wellFormed = true) (h : encode i = cw) :
    decode cw = .ok i :=
  h ▸ decode_encode hw

/-- Settles O1: the word's row, known for each of the sixteen operations, passes R53's checks and builds the instruction
back. -/
theorem decodeOfEncode : Obligations.DecodeOfEncode := fun _ h => decode_encode h

/-- Settles O2: a word that passes the checks has no bit outside the fields its row builds from. -/
theorem oneEncodingPerInstruction : Obligations.OneEncodingPerInstruction := fun _ _ h => encode_of_decode h

/-- Settles O3: the row is the opcode's, its mask check is R51's, and the handler checks of R54 follow in their order. -/
theorem decodingByFields : Obligations.DecodingByFields := by
  intro cw
  refine ⟨fun h => decode_of_noRow (rowOf_eq_none h), fun f hf => ?_⟩
  obtain ⟨row, hrow, rfl⟩ := Option.map_eq_some_iff.mp (opcodeTable_find?_format _ hf)
  have hclean := mask_eq_mtch_iff hrow
  rw [decode_of_row hrow]
  refine ⟨fun hd => decodeRow_of_mask_ne (hclean.not.mpr (not_not.mpr hd)), fun hd => ⟨fun hch hs => ?_,
    fun hch hs hid => ?_, fun hs => ⟨row.build cw, ?_⟩⟩⟩
  · exact decodeRow_of_reservedHandler (hclean.mpr hd) hch hs
  · exact decodeRow_of_vrfWithId (hclean.mpr hd) hch hs hid
  · exact decodeRow_eq_ok.mpr ⟨hclean.mpr hd, hs, rfl⟩

/-- Settles O4: each word is the encoding of the operation it stands for. -/
theorem writtenOutWordsDecode : Obligations.WrittenOutWordsDecode :=
  ⟨decode_of_encode_eq rfl rfl, decode_of_encode_eq rfl rfl, decode_of_encode_eq rfl rfl, decode_of_encode_eq rfl rfl,
    decode_of_encode_eq rfl rfl, decode_of_encode_eq rfl rfl⟩

end Sys2Proof
end

section
/-! SUPPORT. The address byte (R55), the step that runs a word (R45, R53), and the pseudo-instructions' expansions
(R59). -/

namespace Sys2Proof.Machine

/-! ### The address byte -/

theorem addrbyte_address (a7 : BusAddr) (rw : Bool) : (addrbyte a7 rw).extractLsb' 1 7 = a7 := by
  ext i hi
  rw [addrbyte]
  cases rw <;> interval_cases i <;> simp

theorem addrbyte_direction (a7 : BusAddr) (rw : Bool) : (addrbyte a7 rw).getLsbD 0 = rw := by
  rw [addrbyte]
  cases rw <;> simp

/-- The read bit flipped turns a write's address byte into a read's. -/
theorem addrbyte_flip (a7 : BusAddr) : addrbyte a7 false ^^^ 1#8 = addrbyte a7 true := by
  ext i hi
  rw [addrbyte, addrbyte]
  interval_cases i <;> simp

/-- Settles O5: the layout bit by bit for both directions; R55's examples are computed. -/
theorem addressByteLayout : Obligations.AddressByteLayout :=
  ⟨fun a7 rw => ⟨addrbyte_address a7 rw, addrbyte_direction a7 rw, addrbyte_flip a7⟩, rfl, rfl, rfl, rfl⟩

/-! ### The step that runs a word -/

theorem runWord_of_ok {cw : CmdWord} {i : Instr} (h : decode cw = .ok i) (s : State) : runWord cw s = exec i s := by
  rw [runWord, h]

theorem runWord_of_error {cw : CmdWord} {e : DecodeError} (h : decode cw = .error e) (s : State) :
    runWord cw s = .refused (refusalOf e) := by
  rw [runWord, h]

/-- A step whose move is a word runs that word, whoever issues it. -/
theorem step_of_word {s t : State} {cw : CmdWord}
    (h : nextMove s = some (.act (.issue cw), t) ∨ nextMove s = some (.port (.deliver cw), t)) :
    step s = runWord cw t := by
  obtain h | h := h
  · exact step_of_move h
  · exact step_of_move h

/-- Settles O6: both agents' moves run the word, and the word's meaning is its decoding's. -/
theorem stepRunsTheDecodedInstruction : Obligations.StepRunsTheDecodedInstruction := by
  intro s t cw h
  rw [step_of_word h]
  exact ⟨fun i hd => runWord_of_ok hd t, fun e hd => runWord_of_error hd t⟩

/-- With no stop recorded a placed word is the next move, and using it up gives back the state it was placed in. -/
theorem nextMove_withFetchWord {s : State} (h : s.outcome = .none) (nbits w : Nat) :
    nextMove (s.withFetchWord nbits w) = some (.act (.issue (BitVec.ofNat 64 (w % 2 ^ nbits))), s) := by
  have hpick : pickAgent (s.withFetchWord nbits w) = some .other := by
    simp [pickAgent, State.withFetchWord, enabled, State.running, h]
  rw [nextMove, hpick]
  rfl

/-- Settles O7: the placed word is the next move, and it decodes to the instruction. -/
theorem nextStepRunsThePlacedWord : Obligations.NextStepRunsThePlacedWord := by
  intro s i h hw
  have hcw : BitVec.ofNat 64 ((encode i).toNat % 2 ^ 64) = encode i := by
    rw [Nat.mod_eq_of_lt (encode i).isLt, BitVec.ofNat_toNat, BitVec.setWidth_eq]
  have hmove := nextMove_withFetchWord h 64 (encode i).toNat
  rw [hcw] at hmove
  rw [step_of_word (.inl hmove), runWord_of_ok (decode_encode hw)]

/-! ### The pseudo-instructions -/

/-- SETBUF's two parts make the same check, and the first leaves the second its parameters. -/
theorem execAll_setbuf {s : State} {ptr n : Half} (h : bufferInRange s.par ptr n = true) :
    execAll (Pseudo.setbuf ptr n).expand s =
      .next { s with vrf := { s.vrf with
        wbase := ptr, wsize := n.toNat, wbound := true, rbase := ptr, rsize := n.toNat, rbound := true } } :=
  execAll_pair (exec_setwbuf_of_inRange h) (exec_setrbuf_of_inRange h)

theorem execAll_regvrf (s : State) : execAll Pseudo.regvrf.expand s = .next { s with slots := ⟨.vrf, .vrf, .vrf⟩ } :=
  rfl

/-- Settles O24: a range inside memory passes SETBUF's check; REGVRF's parts check nothing. -/
theorem pseudoInstructionsExpand : Obligations.PseudoInstructionsExpand := by
  intro s ptr n
  refine ⟨rfl, rfl, fun hptr hend => execAll_setbuf ?_, execAll_regvrf s⟩
  simp only [bufferInRange, hptr, hend, decide_true, Bool.and_self]

end Sys2Proof.Machine
end

section
/-! SUPPORT. The common entry of the controller commands (R62): its checks one by one, and what it leaves. -/

namespace Sys2Proof.Machine

/-- An admitted command passes every check of its entry (R62). -/
theorem enter_of_admitted {s : State} {op : CtrlOp} {ptr n : Half} (h : Admitted s op ptr n) (a7 : BusAddr) (d8 : Byte)
    (q : SeqPos) : enter op a7 d8 ptr n q s = .next (s.entered op a7 d8 ptr n q) := by
  obtain ⟨hrole, hbusy, hrange⟩ := h
  exact enter_eq_next.mpr ⟨hrole, hbusy, operandRefusal_eq_none.mpr hrange, rfl⟩

/-- Settles O44: the entry's registers, with the length that each format gives. -/
theorem admittedCommandsEnter : Obligations.AdmittedCommandsEnter := by
  intro s a7 d8 ptr n
  exact ⟨fun h => enter_of_admitted h .., fun h => enter_of_admitted h .., fun h => enter_of_admitted h ..,
    fun h => enter_of_admitted h .., fun h => enter_of_admitted h ..⟩

section
variable {s : State} {op : CtrlOp} {a7 : BusAddr} {d8 : Byte} {ptr n : Half} {q : SeqPos}

theorem enter_of_target (h : s.par.role = .target) : enter op a7 d8 ptr n q s = .refused .roleMismatch := by
  simp [enter, h]

theorem enter_of_busy (h : s.par.role = .controller) (hb : s.eng.busy = true) :
    enter op a7 d8 ptr n q s = .fault .concurrentCall := by
  simp [enter, h, hb]

/-- With the role and an idle engine, the operand check that fails is what the entry answers. -/
theorem enter_of_operandRefusal {r : Refusal} (h : s.par.role = .controller) (hb : s.eng.busy = false)
    (ho : operandRefusal s.par op ptr n = some r) : enter op a7 d8 ptr n q s = .refused r := by
  simp [enter, h, hb, ho]

end

section
variable {p : Params} {op : CtrlOp} {ptr n : Half}

theorem operandRefusal_of_zero (hp : hasPayload op = true) (hn : n = 0#16) :
    operandRefusal p op ptr n = some .zeroLength := by
  simp [operandRefusal, hp, hn]

theorem operandRefusal_of_long (hp : hasPayload op = true) (hn : n ≠ 0#16) (hl : 2 ^ p.cntW ≤ n.toNat) :
    operandRefusal p op ptr n = some .lengthTooLarge := by
  simp [operandRefusal, hp, hn, hl]

theorem operandRefusal_of_outside (hp : hasPayload op = true) (hn : n ≠ 0#16) (hl : n.toNat < 2 ^ p.cntW)
    (hr : 2 ^ p.addrW < ptr.toNat + n.toNat) : operandRefusal p op ptr n = some .bufferOutOfRange := by
  simp [operandRefusal, hp, hn, hl, hr]

end

/-- An instruction that a command's entry answers for makes its checks: the role, a running command, the operands. -/
theorem entryChecks {s : State} {i : Instr} {op : CtrlOp} {a7 : BusAddr} {d8 : Byte} {ptr n : Half} {q : SeqPos}
    (hi : exec i s = enter op a7 d8 ptr n q s) :
    (s.par.role = .target → exec i s = .refused .roleMismatch) ∧
    (s.par.role = .controller → s.eng.busy = true → exec i s = .fault .concurrentCall) ∧
    ∀ r, s.par.role = .controller → s.eng.busy = false → operandRefusal s.par op ptr n = some r →
      exec i s = .refused r := by
  rw [hi]
  exact ⟨enter_of_target, enter_of_busy, fun _ => enter_of_operandRefusal⟩

/-- Settles O45: the five commands share one entry, and three of them have a payload to check. -/
theorem entryChecksInOrder : Obligations.EntryChecksInOrder := by
  intro s a7 d8 ptr n i
  constructor
  · intro hi
    obtain ⟨op, d, q, hpay, hexec⟩ :
        ∃ op d q, hasPayload op = true ∧ exec i s = enter op a7 d ptr n q s := by
      obtain rfl | rfl | rfl := hi
      · exact ⟨.sendbytes, _, _, rfl, rfl⟩
      · exact ⟨.readbytes, _, _, rfl, rfl⟩
      · exact ⟨.regwrrd, _, _, rfl, rfl⟩
    obtain ⟨hrole, hbusy, hoperands⟩ := entryChecks hexec
    exact ⟨hrole, hbusy,
      fun h hb hn => hoperands _ h hb (operandRefusal_of_zero hpay hn),
      fun h hb hn hl => hoperands _ h hb (operandRefusal_of_long hpay hn hl),
      fun h hb hn hl hr => hoperands _ h hb (operandRefusal_of_outside hpay hn hl hr)⟩
  · intro hi
    obtain ⟨op, d, q, hexec⟩ : ∃ op d q, exec i s = enter op a7 d 0#16 0#16 q s := by
      obtain rfl | rfl := hi
      · exact ⟨.sendbyte, _, _, rfl⟩
      · exact ⟨.readbyte, _, _, rfl⟩
    obtain ⟨hrole, hbusy, -⟩ := entryChecks hexec
    exact ⟨hrole, hbusy⟩

end Sys2Proof.Machine
end

section
/-! SUPPORT. Runs of an undisturbed command, built from its return backwards: `Returns s r accs m` says that from `s`
the command returns `r` after the port accesses `accs`, leaving memory `m`; there is one rule for a line, one for a poll
and one for each kind of last line. -/

namespace Sys2Proof.Machine

/-! ### Which command's line an engine step is (R20) -/

section
variable {s : State}

theorem engineLine_sendbyte {l : SendbyteLine} (h : s.eng.seq = .sendbyte l) : engineLine s = sendbyteLine l s := by
  rw [engineLine, h]

theorem engineLine_sendbytes {l : SendbytesLine} (h : s.eng.seq = .sendbytes l) :
    engineLine s = sendbytesLine l s := by
  rw [engineLine, h]

theorem engineLine_readbyte {l : ReadbyteLine} (h : s.eng.seq = .readbyte l) : engineLine s = readbyteLine l s := by
  rw [engineLine, h]

theorem engineLine_readbytes {l : ReadbytesLine} (h : s.eng.seq = .readbytes l) :
    engineLine s = readbytesLine l s := by
  rw [engineLine, h]

theorem engineLine_regwrrd {l : RegwrrdLine} (h : s.eng.seq = .regwrrd l) : engineLine s = regwrrdLine l s := by
  rw [engineLine, h]

end

/-! ### What the port's scripts answer -/

theorem pollAnswer_of_polls {s : State} {p : Snapshot} {ps : List Snapshot} (h : s.env.polls = p :: ps) :
    s.pollAnswer = p := by
  rw [State.pollAnswer, h, List.headD_cons]

theorem rxbAnswer_of_rxbs {s : State} {b : Byte} {bs : List Byte} (h : s.env.rxbs = b :: bs) : s.rxbAnswer = b := by
  rw [State.rxbAnswer, h, List.headD_cons]

theorem cntAnswer_of_cnts {s : State} {c : Half} {cs : List Half} (h : s.env.cnts = c :: cs) :
    s.cntAnswer = s.par.cntTrunc c := by
  rw [State.cntAnswer, h, List.headD_cons]

/-! ### A command at a line -/

/-- A command runs undisturbed, and its next line is `q`. -/
structure AtLine (q : SeqPos) (s : State) : Prop where
  undisturbed : Undisturbed s
  busy : s.eng.busy = true
  seq : s.eng.seq = q
  command : q ≠ .idle

theorem AtLine.ne_idle {q : SeqPos} {s : State} (h : AtLine q s) : s.eng.seq ≠ .idle := h.seq ▸ h.command

/-- After its entry a command is at its first line. -/
theorem AtLine.entered {s : State} {op : CtrlOp} {a7 : BusAddr} {d8 : Byte} {ptr n : Half} {q : SeqPos}
    (hu : Undisturbed s) (hq : q ≠ .idle) : AtLine q (s.entered op a7 d8 ptr n q) :=
  ⟨hu, rfl, rfl, hq⟩

/-- A line after which the engine is busy returned nothing, and the command is at its next line. -/
theorem AtLine.next {q : SeqPos} {s t : State} (h : AtLine q s) (hl : engineLine s = .ok t) (hb : t.eng.busy = true) :
    AtLine t.eng.seq t ∧ t.hist.results = s.hist.results := by
  obtain ⟨accs, u, q', w, ha, hw, rfl⟩ | ⟨r, rfl⟩ := engineLine_step hl
  · obtain ⟨-, -, -, -, -, hhist⟩ := ha.frame
    refine ⟨⟨undisturbed_line h.undisturbed hl, hb, rfl, fun hq => h.ne_idle ?_⟩, by simp [hhist]⟩
    have hop := hw.command
    rw [show q' = .idle from hq] at hop
    exact SeqPos.op_eq_none.mp hop.symm
  · cases hb

theorem AtLine.run {q : SeqPos} {s t : State} (h : AtLine q s) (hl : engineLine s = .ok t) (k : Nat) :
    core.run (k + 1) s = core.run k t :=
  run_line h.undisturbed h.busy h.ne_idle hl k

/-! ### Returns -/

/-- `t` is `s` after a command returned `r`, having made the accesses `accs` and left memory `m`. -/
structure Returned (s t : State) (r : Result) (accs : List PortAccess) (m : Memory) : Prop where
  busy : t.eng.busy = false
  seq : t.eng.seq = .idle
  results : t.hist.results = s.hist.results ++ [r]
  trace : t.hist.trace = s.hist.trace ++ accs
  mem : t.mem = m
  block : SameBlock s t

/-- From `s` a run of steps ends in the return of `r`. -/
def Returns (s : State) (r : Result) (accs : List PortAccess) (m : Memory) : Prop :=
  ∃ (k : Nat) (t : State), core.run k s = .next t ∧ Returned s t r accs m

/-- The line that returns (R63). -/
theorem Returned.finish (s : State) (r : Result) : Returned s (s.finish r) r [] s.mem :=
  ⟨rfl, rfl, rfl, (List.append_nil _).symm, rfl, rfl, rfl, rfl, rfl⟩

section
variable {q q' : SeqPos} {s t u : State} {r : Result} {a accs : List PortAccess} {m : Memory}

/-- What a line does comes before what the command does after it. -/
theorem Returned.of_line (h : AtLine q s) (hl : engineLine s = .ok t) (hb : t.eng.busy = true)
    (ht : t.hist.trace = s.hist.trace ++ a) (hr : Returned t u r accs m) : Returned s u r (a ++ accs) m := by
  obtain ⟨-, hres⟩ := h.next hl hb
  exact ⟨hr.busy, hr.seq, by rw [hr.results, hres], by rw [hr.trace, ht, List.append_assoc], hr.mem,
    (engineLine_keeps hl).1.trans hr.block⟩

/-- The rule for a line: what it adds to the trace, then the rest of the run. -/
theorem Returns.of_line (h : AtLine q s) (hl : engineLine s = .ok t) (ht : t.hist.trace = s.hist.trace ++ a)
    (hk : AtLine t.eng.seq t → Returns t r accs m) (hb : t.eng.busy = s.eng.busy) : Returns s r (a ++ accs) m := by
  have hb : t.eng.busy = true := hb.trans h.busy
  obtain ⟨k, u, hrun, hret⟩ := hk (h.next hl hb).1
  exact ⟨k + 1, u, by rw [h.run hl, hrun], hret.of_line h hl hb ht⟩

/-- The rule for a line that makes one port access. -/
theorem Returns.line {x : PortAccess} (h : AtLine q s) (hl : engineLine s = .ok t)
    (ht : t.hist.trace = s.hist.trace ++ [x]) (hk : AtLine t.eng.seq t → Returns t r accs m)
    (hb : t.eng.busy = s.eng.busy := by rfl) : Returns s r (x :: accs) m :=
  Returns.of_line h hl ht hk hb

/-- The rule for a line that makes no port access. -/
theorem Returns.silent (h : AtLine q s) (hl : engineLine s = .ok t) (ht : t.hist.trace = s.hist.trace)
    (hk : AtLine t.eng.seq t → Returns t r accs m) (hb : t.eng.busy = s.eng.busy := by rfl) : Returns s r accs m :=
  Returns.of_line (a := []) h hl (by rw [ht, List.append_nil]) hk hb

/-- The rule for the line that returns. -/
theorem Returns.finish (h : AtLine q s) (hl : engineLine s = .ok (s.finish r)) : Returns s r [] s.mem :=
  ⟨1, _, h.run hl 0, .finish s r⟩

/-- The rule for a line that polls: the next snapshot of the script says where it goes. -/
theorem Returns.poll {p : Snapshot} {ps : List Snapshot} (h : AtLine q s) (hp : s.env.polls = p :: ps)
    (hl : engineLine s = .ok (s.polled.goto q'))
    (hk : AtLine q' (s.polled.goto q') → (s.polled.goto q').env.polls = ps →
      Returns (s.polled.goto q') r accs m) : Returns s r (.poll p :: accs) m := by
  refine .line h hl (by simp [pollAnswer_of_polls hp]) fun h' => hk h' ?_
  simp [hp]

/-- The last two lines of the commands that return a bool (R65): the count, then the return. Both are run here. -/
theorem returned_of_count {op : CtrlOp} (h : AtLine q s) (hl : engineLine s = .ok (s.checkCount.goto q'))
    (hret : ∀ t : State, t.eng.seq = q' → engineLine t = .ok (t.finish (.success op t.eng.work.ok))) :
    ∃ t, core.run 2 s = .next t ∧ Returned s t (.success op (countOk s.cntAnswer)) [.readCnt s.cntAnswer] s.mem := by
  obtain ⟨h', -⟩ := h.next hl h.busy
  have hl' := hret (s.checkCount.goto q') rfl
  refine ⟨_, (h.run hl 1).trans (h'.run hl' 0), ?_⟩
  exact (Returned.finish (s.checkCount.goto q') _).of_line h hl h.busy rfl

/-- As a rule for runs, with the count that the script answers. -/
theorem Returns.count {op : CtrlOp} {c : Half} {cs : List Half} (h : AtLine q s) (hc : s.env.cnts = c :: cs)
    (hl : engineLine s = .ok (s.checkCount.goto q'))
    (hret : ∀ t : State, t.eng.seq = q' → engineLine t = .ok (t.finish (.success op t.eng.work.ok))) :
    Returns s (.success op (s.par.cntTrunc c == 0#16)) [.readCnt (s.par.cntTrunc c)] s.mem := by
  rw [← cntAnswer_of_cnts hc]
  exact ⟨2, returned_of_count h hl hret⟩

end

/-- Settles O53: at each of the three lines the count is read and then the result returned. -/
theorem successLaw : Obligations.SuccessLaw := by
  intro s l op hu hb hseq hl
  obtain ⟨t, hrun, hret⟩ : ∃ t, core.run 2 s = .next t ∧
      Returned s t (.success op (countOk s.cntAnswer)) [.readCnt s.cntAnswer] s.mem := by
    obtain ⟨rfl, rfl⟩ | ⟨rfl, rfl⟩ | ⟨rfl, rfl⟩ := hl
    · exact returned_of_count ⟨hu, hb, hseq, nofun⟩ (engineLine_sendbytes hseq) fun _ h => engineLine_sendbytes h
    · exact returned_of_count ⟨hu, hb, hseq, nofun⟩ (engineLine_readbytes hseq) fun _ h => engineLine_readbytes h
    · exact returned_of_count ⟨hu, hb, hseq, nofun⟩ (engineLine_regwrrd hseq) fun _ h => engineLine_regwrrd h
  have hok : countOk s.cntAnswer = false ↔ s.cntAnswer ≠ 0#16 := by simp [countOk]
  refine ⟨t, hrun, hret.busy, hret.seq, _, hret.results, hok, fun c rest hc hlt => ?_⟩
  have hcnt : s.cntAnswer = c := by rw [cntAnswer_of_cnts hc, cntTrunc_of_lt hlt]
  rw [hcnt] at hok hret ⊢
  exact ⟨hok, hret.trace⟩

/-! ### The drain (R71) -/

/-- The positions and the lines of a command's drain: `own d` at its line `d`, `back` the line after it. -/
structure IsDrain (own : DrainLine → SeqPos) (back : SeqPos) (unload : State → Except Fault State) : Prop where
  line : ∀ (d : DrainLine) (t : State), t.eng.seq = own d → engineLine t = drainLine own back unload d t

theorem readbyteDrain :
    IsDrain (fun d => .readbyte (.drain d)) (.readbyte .L7) (fun t => .ok (takeByte t)) :=
  ⟨fun _ _ h => engineLine_readbyte h⟩

theorem readbytesDrain : IsDrain (fun d => .readbytes (.drain d)) (.readbytes .L7) storePayload :=
  ⟨fun _ _ h => engineLine_readbytes h⟩

theorem regwrrdDrain : IsDrain (fun d => .regwrrd (.drain d)) (.regwrrd .L13) storePayload :=
  ⟨fun _ _ h => engineLine_regwrrd h⟩

section
variable {own : DrainLine → SeqPos} {back : SeqPos} {unload : State → Except Fault State} {s : State}

/-- With DRAIN_WAITS line D2 goes where the poll says. -/
theorem IsDrain.poll (hd : IsDrain own back unload) (h : AtLine (own .D2) s) (hw : s.par.drainWaits = true)
    {p : Snapshot} {ps : List Snapshot} (hp : s.env.polls = p :: ps) :
    engineLine s = .ok (s.polled.goto (if p.rxbf then own .D3 else own .D2)) := by
  rw [hd.line .D2 s h.seq, drainLine, if_pos hw, pollAnswer_of_polls hp]

/-- With DRAIN_WAITS a drain polls once a step for as long as no byte is shown (R71, R72). -/
theorem IsDrain.waits (hd : IsDrain own back unload) {ps rest : List Snapshot} (h : AtLine (own .D2) s)
    (hw : s.par.drainWaits = true) (hp : s.env.polls = ps ++ rest) (hempty : ∀ p ∈ ps, p.rxbf = false) :
    ∃ t, core.run ps.length s = .next t ∧ AtLine (own .D2) t ∧ t.hist.results = s.hist.results ∧
      t.hist.trace = s.hist.trace ++ ps.map .poll := by
  induction ps generalizing s with
  | nil => exact ⟨s, rfl, h, rfl, (List.append_nil _).symm⟩
  | cons p ps ih =>
    have hl := hd.poll h hw hp
    rw [hempty p List.mem_cons_self, if_neg Bool.false_ne_true] at hl
    obtain ⟨h', hres⟩ := h.next hl h.busy
    obtain ⟨t, hrun, ht, hres', htrace⟩ :=
      ih h' hw (by simp [hp]) fun p' hp' => hempty p' (List.mem_cons_of_mem p hp')
    refine ⟨t, by rw [List.length_cons, h.run hl, hrun], ht, hres'.trans hres, ?_⟩
    simp [htrace, pollAnswer_of_polls hp]

end

/-- Settles O55: the three drains wait alike. -/
theorem drainWaitsForTheByte : Obligations.DrainWaitsForTheByte := by
  intro s q ps rest hu hb hw hq hseq hp hempty
  obtain ⟨own, back, unload, hd, rfl, hne⟩ :
      ∃ own back unload, IsDrain own back unload ∧ own .D2 = q ∧ q ≠ .idle := by
    obtain rfl | rfl | rfl := hq
    · exact ⟨_, _, _, readbyteDrain, rfl, nofun⟩
    · exact ⟨_, _, _, readbytesDrain, rfl, nofun⟩
    · exact ⟨_, _, _, regwrrdDrain, rfl, nofun⟩
  obtain ⟨t, hrun, ht, hres, htrace⟩ := hd.waits ⟨hu, hb, hseq, hne⟩ hw hp hempty
  exact ⟨t, hrun, ht.seq, ht.busy, hres, htrace⟩

end Sys2Proof.Machine
end

section
/-! SUPPORT. SENDBYTE and SENDBYTES from word to return (R66, R67): the lines up to the start, the polling loop by
induction on its polls, and the count. -/

namespace Sys2Proof.Machine

/-- After a poll SENDBYTE goes on polling while the transaction runs (R66 L5). -/
theorem sendbyte_poll {s : State} {p : Snapshot} {ps : List Snapshot} (h : s.eng.seq = .sendbyte .L5)
    (hp : s.env.polls = p :: ps) :
    engineLine s = .ok (s.polled.goto (if p.active then .sendbyte .L5 else .sendbyte .L6)) := by
  rw [engineLine_sendbyte h, sendbyteLine, pollAnswer_of_polls hp]

/-- SENDBYTE from its loop on. -/
theorem returns_sendbyte_loop {busy rest : List Snapshot} {last : Snapshot} {c : Half} {cs : List Half} {s : State}
    (h : AtLine (.sendbyte .L5) s) (hactive : AllActive busy) (hlast : last.active = false)
    (hp : s.env.polls = busy ++ last :: rest) (hc : s.env.cnts = c :: cs) :
    Returns s (.success .sendbyte (s.par.cntTrunc c == 0#16))
      ((busy ++ [last]).map .poll ++ [PortAccess.readCnt (s.par.cntTrunc c)]) s.mem := by
  induction busy generalizing s with
  | nil =>
    have hl := sendbyte_poll h.seq hp
    rw [hlast, if_neg Bool.false_ne_true] at hl
    exact .poll h hp hl fun h _ => .count h hc (engineLine_sendbyte h.seq) fun _ => engineLine_sendbyte
  | cons p busy ih =>
    have hl := sendbyte_poll h.seq hp
    rw [hactive p List.mem_cons_self, if_pos rfl] at hl
    exact .poll h hp hl fun h hp => ih h (fun q hq => hactive q (List.mem_cons_of_mem p hq)) hp hc

/-- SENDBYTE from its first line to its return. -/
theorem returns_sendbyte {s : State} (hu : Undisturbed s) (a7 : BusAddr) (d8 : Byte) {busy : List Snapshot}
    {last : Snapshot} {c : Half} (hscript : SendScript s.env busy last c) :
    Returns (s.entered .sendbyte a7 d8 0#16 0#16 (.sendbyte .L1)) (.success .sendbyte (s.par.cntTrunc c == 0#16))
      (.writeAddr (addrbyte a7 false) :: .writeCnt 1#16 :: .writeTxb d8 :: .start ::
        ((busy ++ [last]).map .poll ++ [PortAccess.readCnt (s.par.cntTrunc c)])) s.mem := by
  obtain ⟨hactive, hlast, ⟨rest, hp⟩, cs, hc⟩ := hscript
  have h : AtLine (.sendbyte .L1) (s.entered .sendbyte a7 d8 0#16 0#16 (.sendbyte .L1)) := .entered hu nofun
  refine .line h (engineLine_sendbyte h.seq) rfl fun h => ?_
  refine .line h (engineLine_sendbyte h.seq) rfl fun h => ?_
  refine .line h (engineLine_sendbyte h.seq) rfl fun h => ?_
  refine .line h (engineLine_sendbyte h.seq) rfl fun h => ?_
  simpa using returns_sendbyte_loop h hactive hlast (by simpa using hp) (by simpa using hc)

/-- Settles O46: the entry completes, and the run from it is `returns_sendbyte`. -/
theorem sendbyteRuns : Obligations.SendbyteRuns := by
  intro s a7 d8 busy last c hadm hu hscript
  refine ⟨_, enter_of_admitted hadm .., ?_⟩
  obtain ⟨k, t, hrun, ht⟩ := returns_sendbyte hu a7 d8 hscript
  exact ⟨k, t, hrun, ht.busy, ht.seq, ht.results, by simp [ht.trace], ht.block, fun a => by rw [ht.mem]⟩

/-! ### SENDBYTES -/

/-- The payload byte by byte. -/
theorem payloadBytes_succ (m : Memory) (a n : Nat) :
    payloadBytes m a (n + 1) = m.read a :: payloadBytes m (a + 1) n := by
  simp [payloadBytes, List.range_succ_eq_map, Nat.add_assoc, Nat.add_comm 1]

/-- After a poll SENDBYTES leaves the loop, loads the next byte, or polls again (R67 L5). -/
theorem sendbytes_poll {s : State} {p : Snapshot} {ps : List Snapshot} (h : s.eng.seq = .sendbytes .L5)
    (hp : s.env.polls = p :: ps) :
    engineLine s = .ok (s.polled.goto
      (if p.active = false then .sendbytes .L7
       else if p.txbe = true ∧ s.eng.work.i < s.eng.work.n.toNat then .sendbytes .L6
       else .sendbytes .L5)) := by
  rw [engineLine_sendbytes h, sendbytesLine, pollAnswer_of_polls hp]

/-- The first byte is loaded before the start (R67 L3). -/
theorem sendbytes_firstLoad {s : State} (h : s.eng.seq = .sendbytes .L3)
    (ha : s.eng.work.ptr.toNat < 2 ^ s.par.addrW) :
    engineLine s = .ok ((s.portWriteTxb (s.mem.read s.eng.work.ptr.toNat)).goto (.sendbytes .L4)) := by
  rw [engineLine_sendbytes h]
  exact thenGoto_eq_ok.mpr ⟨_, loadPayload_eq_ok.mpr ⟨ha, rfl⟩, rfl⟩

/-- A later byte is loaded from the index, which then counts up (R67 L6). -/
theorem sendbytes_load {s : State} (h : s.eng.seq = .sendbytes .L6)
    (ha : s.eng.work.ptr.toNat + s.eng.work.i < 2 ^ s.par.addrW) :
    engineLine s = .ok
      ((s.portWriteTxb (s.mem.read (s.eng.work.ptr.toNat + s.eng.work.i))).bumpI.goto (.sendbytes .L5)) := by
  rw [engineLine_sendbytes h, sendbytesLine, loadPayload_eq_ok.mpr ⟨ha, rfl⟩]

/-- While the transmit register is not free, and with nothing left to send, the loop only polls. -/
theorem sendTrace_cons_of_not {p : Snapshot} {bs : List Byte} (h : ¬ (p.active = true ∧ p.txbe = true) ∨ bs = [])
    (ps : List Snapshot) : sendTrace bs (p :: ps) = .poll p :: sendTrace bs ps := by
  cases bs with
  | nil => rfl
  | cons b bs => rw [sendTrace, if_neg (h.resolve_right nofun)]

/-- SENDBYTES from its loop on, with the bytes from the index to the end still to load. -/
theorem returns_sendbytes_loop {busy rest : List Snapshot} {last : Snapshot} {c : Half} {cs : List Half} {s : State}
    {left : Nat} (h : AtLine (.sendbytes .L5) s) (hactive : AllActive busy) (hlast : last.active = false)
    (hp : s.env.polls = busy ++ last :: rest) (hc : s.env.cnts = c :: cs)
    (hleft : s.eng.work.i + left = s.eng.work.n.toNat)
    (hrange : s.eng.work.ptr.toNat + s.eng.work.n.toNat ≤ 2 ^ s.par.addrW) :
    Returns s (.success .sendbytes (s.par.cntTrunc c == 0#16))
      (sendTrace (payloadBytes s.mem (s.eng.work.ptr.toNat + s.eng.work.i) left) (busy ++ [last]) ++
        [PortAccess.readCnt (s.par.cntTrunc c)]) s.mem := by
  induction busy generalizing s left with
  | nil =>
    have hl := sendbytes_poll h.seq hp
    rw [if_pos hlast] at hl
    rw [List.nil_append, sendTrace_cons_of_not (.inl (by simp [hlast])), sendTrace]
    exact .poll h hp hl fun h _ => .count h hc (engineLine_sendbytes h.seq) fun _ => engineLine_sendbytes
  | cons p busy ih =>
    have hact : p.active = true := hactive p List.mem_cons_self
    have hactive' : AllActive busy := fun q hq => hactive q (List.mem_cons_of_mem p hq)
    have hl := sendbytes_poll h.seq hp
    rw [if_neg (by simp [hact])] at hl
    by_cases hload : p.txbe = true ∧ s.eng.work.i < s.eng.work.n.toNat
    · rw [if_pos hload] at hl
      obtain ⟨left, rfl⟩ : ∃ k, left = k + 1 := ⟨left - 1, by omega⟩
      rw [payloadBytes_succ, List.cons_append, sendTrace, if_pos ⟨hact, hload.1⟩]
      refine .poll h hp hl fun h hp => ?_
      have ha : s.eng.work.ptr.toNat + s.eng.work.i < 2 ^ s.par.addrW := by omega
      refine .line h (sendbytes_load h.seq ha) rfl fun h => ?_
      exact ih h hactive' hp hc (show s.eng.work.i + 1 + left = s.eng.work.n.toNat by omega) hrange
    · rw [if_neg hload] at hl
      have hnot : ¬ (p.active = true ∧ p.txbe = true) ∨
          payloadBytes s.mem (s.eng.work.ptr.toNat + s.eng.work.i) left = [] := by
        by_cases htx : p.txbe = true
        · have hnone : ¬ s.eng.work.i < s.eng.work.n.toNat := fun hi => hload ⟨htx, hi⟩
          have hzero : left = 0 := by omega
          exact .inr (by rw [hzero]; rfl)
        · exact .inl fun h => htx h.2
      rw [List.cons_append, sendTrace_cons_of_not hnot]
      exact .poll h hp hl fun h hp => ih h hactive' hp hc hleft hrange

/-- SENDBYTES from its first line to its return. -/
theorem returns_sendbytes {s : State} (hu : Undisturbed s) (a7 : BusAddr) {ptr n : Half} {left : Nat}
    (hn : n.toNat = left + 1) (hrange : ptr.toNat + n.toNat ≤ 2 ^ s.par.addrW) {busy : List Snapshot}
    {last : Snapshot} {c : Half} (hscript : SendScript s.env busy last c) :
    Returns (s.entered .sendbytes a7 0#8 ptr n (.sendbytes .L1)) (.success .sendbytes (s.par.cntTrunc c == 0#16))
      (.writeAddr (addrbyte a7 false) :: .writeCnt n :: .writeTxb (s.mem.read ptr.toNat) :: .start ::
        (sendTrace (payloadBytes s.mem (ptr.toNat + 1) left) (busy ++ [last]) ++
          [PortAccess.readCnt (s.par.cntTrunc c)])) s.mem := by
  obtain ⟨hactive, hlast, ⟨rest, hp⟩, cs, hc⟩ := hscript
  have h : AtLine (.sendbytes .L1) (s.entered .sendbytes a7 0#8 ptr n (.sendbytes .L1)) := .entered hu nofun
  have hfirst : ptr.toNat < 2 ^ s.par.addrW := by omega
  refine .line h (engineLine_sendbytes h.seq) rfl fun h => ?_
  refine .line h (engineLine_sendbytes h.seq) rfl fun h => ?_
  refine .line h (sendbytes_firstLoad h.seq hfirst) rfl fun h => ?_
  refine .line h (engineLine_sendbytes h.seq) rfl fun h => ?_
  have hlen : lengthOf .sendbytes n = n := rfl
  have hloop := returns_sendbytes_loop (left := left) h hactive hlast (by simpa using hp) (by simpa using hc)
    (by simp [entryWork, hlen]; omega) (by simpa [entryWork, hlen] using hrange)
  simpa [entryWork] using hloop

/-- Settles O47: the entry completes, and the run from it is `returns_sendbytes`. -/
theorem sendbytesRuns : Obligations.SendbytesRuns := by
  intro s a7 ptr n b0 bytes busy last c hadm hu hscript hbytes
  obtain ⟨hpos, -, hrange⟩ := hadm.2.2 rfl
  obtain ⟨left, hleft⟩ : ∃ k, n.toNat = k + 1 := ⟨n.toNat - 1, by omega⟩
  rw [hleft, payloadBytes_succ] at hbytes
  obtain ⟨rfl, rfl⟩ := List.cons.inj hbytes
  refine ⟨_, enter_of_admitted hadm .., ?_⟩
  obtain ⟨k, t, hrun, ht⟩ := returns_sendbytes hu a7 hleft hrange hscript
  exact ⟨k, t, hrun, ht.busy, ht.seq, ht.results, by simp [ht.trace], ht.block, fun a => by rw [ht.mem]⟩

end Sys2Proof.Machine
end

section
/-! SUPPORT. Received bytes (R68 to R71): `P bs t` says of a state `t` that the bytes `bs` are still to come and what
they will make of it. One rule for a polling loop that unloads them and one for the drain serve the three reads, each
with its own `P`. -/

namespace Sys2Proof.Machine

/-- The accesses of a read's loop and drain: polls and unloads. -/
def IsRead (x : PortAccess) : Prop := (∃ p, x = .poll p) ∨ ∃ b, x = .readRxb b

theorem isRead_of_mem_receiveTrace {bs : List Byte} {ps : List Snapshot} :
    ∀ x ∈ receiveTrace bs ps, IsRead x := by
  induction ps generalizing bs with
  | nil => cases bs <;> exact nofun
  | cons p ps ih =>
    have hpoll : IsRead (.poll p) := .inl ⟨p, rfl⟩
    cases bs with
    | nil => exact List.forall_mem_cons.mpr ⟨hpoll, ih⟩
    | cons b bs =>
      rw [receiveTrace]
      split
      · exact List.forall_mem_cons.mpr ⟨hpoll, List.forall_mem_cons.mpr ⟨.inr ⟨b, rfl⟩, ih⟩⟩
      · exact List.forall_mem_cons.mpr ⟨hpoll, ih⟩

theorem isRead_of_mem_polls {ps : List Snapshot} : ∀ x ∈ ps.map PortAccess.poll, IsRead x := by
  intro x hx
  obtain ⟨p, -, rfl⟩ := List.mem_map.mp hx
  exact .inl ⟨p, rfl⟩

theorem isRead_of_mem_unloads {bs : List Byte} : ∀ x ∈ bs.map PortAccess.readRxb, IsRead x := by
  intro x hx
  obtain ⟨b, -, rfl⟩ := List.mem_map.mp hx
  exact .inr ⟨b, rfl⟩

/-- A poll that shows a byte while the transaction runs is followed by its unload. -/
theorem receiveTrace_of_byte {p : Snapshot} (ha : p.active = true) (hr : p.rxbf = true) (b : Byte) (bs : List Byte)
    (ps : List Snapshot) : receiveTrace (b :: bs) (p :: ps) = .poll p :: .readRxb b :: receiveTrace bs ps := by
  rw [receiveTrace, if_pos ⟨ha, hr⟩]

/-- Any other poll is followed by the next. -/
theorem receiveTrace_of_noByte {p : Snapshot} (h : ¬ (p.active = true ∧ p.rxbf = true)) (bs : List Byte)
    (ps : List Snapshot) : receiveTrace bs (p :: ps) = .poll p :: receiveTrace bs ps := by
  cases bs with
  | nil => rfl
  | cons b bs => rw [receiveTrace, if_neg h]

theorem receiveTrace_nil_right (bs : List Byte) : receiveTrace bs [] = [] := by
  cases bs <;> rfl

/-! ### Unloading -/

/-- `u` is `t` after the byte `b` was unloaded from RXB, with nothing else of the run changed. -/
structure Unloaded (b : Byte) (t u : State) : Prop where
  trace : u.hist.trace = t.hist.trace ++ [.readRxb b]
  polls : u.env.polls = t.env.polls
  busy : u.eng.busy = t.eng.busy

/-- `unload` takes the next of the bytes that `P` says are to come, polls and jumps take none, and `p` are the run's
parameters. -/
structure Unloading (p : Params) (unload : State → Except Fault State) (P : List Byte → State → Prop) : Prop where
  par : ∀ {bs t}, P bs t → t.par = p
  goto : ∀ {bs t}, P bs t → ∀ q, P bs (t.goto q)
  polled : ∀ {bs t}, P bs t → P bs t.polled
  unload : ∀ {b bs t}, P (b :: bs) t → ∃ u, unload t = .ok u ∧ Unloaded b t u ∧ P bs u

section
variable {P : List Byte → State → Prop} {unload : State → Except Fault State} {s : State} {r : Result}
  {accs : List PortAccess} {m : Memory} {rest : List Snapshot} {p : Params}

/-- The rule for a line that unloads a byte. -/
theorem Returns.unloadLine (hP : Unloading p unload P) {q q' : SeqPos} {b : Byte} {bs : List Byte} (h : AtLine q s)
    (hs : P (b :: bs) s) (hl : engineLine s = thenGoto (unload s) q')
    (hk : ∀ t, AtLine q' t → P bs t → t.env.polls = s.env.polls → Returns t r accs m) :
    Returns s r (.readRxb b :: accs) m := by
  obtain ⟨u, hu, hub, hbs⟩ := hP.unload hs
  rw [hu, thenGoto] at hl
  exact .line h hl hub.trace (fun h => hk _ h (hP.goto hbs q') hub.polls) hub.busy

/-- A polling loop at `qp`, left for `qx`: polls that `loops` holds of stay in it, with an unload at `qc` after one that
shows a byte, and polls that `leaves` holds of leave it. -/
structure ReadLoop (p : Params) (P : List Byte → State → Prop) (unload : State → Except Fault State)
    (loops leaves : Snapshot → Prop) (qp qc qx : SeqPos) : Prop where
  unloading : Unloading p unload P
  active : ∀ st, loops st → st.active = true
  stays : ∀ {bs t}, P bs t → t.eng.seq = qp → loops t.pollAnswer →
    engineLine t = .ok (t.polled.goto (if t.pollAnswer.rxbf then qc else qp))
  exits : ∀ {bs t}, P bs t → t.eng.seq = qp → leaves t.pollAnswer → engineLine t = .ok (t.polled.goto qx)
  collects : ∀ {b bs t}, P (b :: bs) t → t.eng.seq = qc → engineLine t = thenGoto (unload t) qp

/-- The rule for such a loop: every poll that shows a byte unloads it, and the bytes `extra` are left. -/
theorem Returns.readLoop {loops leaves : Snapshot → Prop} {qp qc qx : SeqPos}
    (hP : ReadLoop p P unload loops leaves qp qc qx) {busy : List Snapshot} {last : Snapshot} {bs extra : List Byte}
    (h : AtLine qp s) (hs : P (bs ++ extra) s) (hp : s.env.polls = busy ++ last :: rest) (hloops : ∀ p ∈ busy, loops p)
    (hlast : leaves last) (hnone : ¬ (last.active = true ∧ last.rxbf = true)) (hlen : bs.length = rxCount busy)
    (hk : ∀ t, AtLine qx t → P extra t → t.env.polls = rest → Returns t r accs m) :
    Returns s r (receiveTrace (bs ++ extra) (busy ++ [last]) ++ accs) m := by
  induction busy generalizing s bs with
  | nil =>
    obtain rfl : bs = [] := List.length_eq_zero_iff.mp hlen
    have hl := hP.exits hs h.seq (by rwa [pollAnswer_of_polls hp])
    rw [List.nil_append, List.nil_append, receiveTrace_of_noByte hnone, receiveTrace_nil_right]
    exact .poll h hp hl fun h hp => hk _ h (hP.unloading.goto (hP.unloading.polled hs) qx) hp
  | cons p busy ih =>
    obtain ⟨hstay, hloops⟩ := List.forall_mem_cons.mp hloops
    have hl := hP.stays hs h.seq (by rwa [pollAnswer_of_polls hp])
    rw [pollAnswer_of_polls hp] at hl
    have hpolled : ∀ q, P (bs ++ extra) (s.polled.goto q) := hP.unloading.goto (hP.unloading.polled hs)
    by_cases hbyte : p.rxbf = true
    · rw [if_pos hbyte] at hl
      rw [rxCount, List.countP_cons_of_pos hbyte] at hlen
      obtain ⟨b, bs, rfl⟩ := List.exists_cons_of_length_eq_add_one hlen
      rw [List.cons_append, List.cons_append, receiveTrace_of_byte (hP.active p hstay) hbyte]
      refine .poll h hp hl fun h hp => ?_
      refine .unloadLine hP.unloading h (hpolled _) (hP.collects (hpolled _) h.seq) fun t h ht hpolls => ?_
      exact ih h ht (hpolls.trans hp) hloops (Nat.succ.inj hlen)
    · rw [if_neg hbyte] at hl
      rw [rxCount, List.countP_cons_of_neg hbyte] at hlen
      rw [List.cons_append, receiveTrace_of_noByte fun hb => hbyte hb.2]
      exact .poll h hp hl fun h hp => ih h (hpolled _) hp hloops hlen

/-! ### The drain -/

variable {own : DrainLine → SeqPos} {back : SeqPos}

/-- The polls a drain waits for, from line D2 to line D3. -/
theorem Returns.drainPolls (hd : IsDrain own back unload) (hP : Unloading p unload P) {drain : List Snapshot}
    {bs : List Byte} (h : AtLine (own .D2) s) (hs : P bs s) (hdrain : DrainPolls p.drainWaits drain)
    (hp : s.env.polls = drain ++ rest) (hk : ∀ t, AtLine (own .D3) t → P bs t → Returns t r accs m) :
    Returns s r (drain.map .poll ++ accs) m := by
  have hpar := hP.par hs
  cases hw : p.drainWaits with
  | false =>
    rw [hw] at hdrain
    obtain rfl : drain = [] := hdrain
    have hl : engineLine s = .ok (s.goto (own .D3)) := by
      simp [hd.line .D2 s h.seq, drainLine, hpar, hw]
    exact .silent h hl rfl fun h => hk _ h (hP.goto hs _)
  | true =>
    rw [hw] at hdrain
    obtain ⟨empty, full, rfl, hempty, hfull⟩ := hdrain
    rw [List.append_assoc, List.singleton_append] at hp
    induction empty generalizing s with
    | nil =>
      have hl := hd.poll h (hpar ▸ hw) hp
      rw [if_pos hfull] at hl
      exact .poll h hp hl fun h _ => hk _ h (hP.goto (hP.polled hs) _)
    | cons p empty ih =>
      obtain ⟨hnone, hempty⟩ := List.forall_mem_cons.mp hempty
      have hl := hd.poll h (hpar ▸ hw) hp
      rw [hnone, if_neg Bool.false_ne_true] at hl
      exact .poll h hp hl fun h hp => ih h (hP.goto (hP.polled hs) _) hpar hp hempty

/-- The rule for the drain: with room for one more byte, one unload (R71). -/
theorem Returns.drain (hd : IsDrain own back unload) (hP : Unloading p unload P) {drain : List Snapshot} {b : Byte}
    {bs : List Byte} (h : AtLine (own .D1) s) (hs : P (b :: bs) s) (hroom : s.eng.work.i < s.eng.work.n.toNat)
    (hdrain : DrainPolls p.drainWaits drain) (hp : s.env.polls = drain ++ rest)
    (hk : ∀ t, AtLine back t → P bs t → Returns t r accs m) :
    Returns s r (drain.map .poll ++ .readRxb b :: accs) m := by
  have hl : engineLine s = .ok (s.goto (own .D2)) := by
    rw [hd.line .D1 s h.seq, drainLine, if_neg (by omega)]
  refine .silent h hl rfl fun h => ?_
  refine .drainPolls hd hP h (hP.goto hs _) hdrain hp fun t h ht => ?_
  exact .unloadLine hP h ht (hd.line .D3 t h.seq) fun t h ht _ => hk t h ht

end

end Sys2Proof.Machine
end

section
/-! SUPPORT. Bytes stored one after the other (R69): what memory reads afterwards. -/

namespace Sys2Proof

/-- Memory with the bytes stored in order from `a`. -/
def Memory.writeAll : Memory → Nat → List Byte → Memory
  | m, _, [] => m
  | m, a, b :: bs => Memory.writeAll (m.write a b) (a + 1) bs

theorem Memory.read_writeAll_outside {bs : List Byte} {m : Memory} (hm : m.wf = true) {a x : Nat}
    (hx : x < a ∨ a + bs.length ≤ x) : (m.writeAll a bs).read x = m.read x := by
  induction bs generalizing m a with
  | nil => rfl
  | cons b bs ih =>
    rw [List.length_cons] at hx
    rw [Memory.writeAll, ih (Memory.wf_write hm a b) (by omega), Memory.read_write_other hm (by omega)]

theorem Memory.read_writeAll {bs : List Byte} {m : Memory} (hm : m.wf = true) (a : Nat) {j : Nat} {b : Byte}
    (hj : bs[j]? = some b) : (m.writeAll a bs).read (a + j) = b := by
  induction bs generalizing m a j with
  | nil => cases hj
  | cons b' bs ih =>
    have hm' := Memory.wf_write hm a b'
    rw [Memory.writeAll]
    cases j with
    | zero =>
      cases hj
      rw [Memory.read_writeAll_outside hm' (by omega), Nat.add_zero, Memory.read_write_same hm]
    | succ j =>
      rw [Nat.add_comm j 1, ← Nat.add_assoc]
      exact ih hm' (a + 1) hj

end Sys2Proof
end

section
/-! SUPPORT. READBYTES and READBYTE from word to return (R68, R69): both poll, collect and may drain, the one into
memory and the other into `eng.rbyte`. -/

namespace Sys2Proof.Machine

/-- The bytes `bs` are still to be stored from `eng.ptr + eng.i`, which makes memory `m`; the parameters, the phase and
the scripted counts are `p`, `ph` and `cs`. -/
structure Storing (p : Params) (ph : Phase) (cs : List Half) (m : Memory) (bs : List Byte) (t : State) : Prop where
  par : t.par = p
  phase : t.eng.work.phase = ph
  cnts : t.env.cnts = cs
  room : t.eng.work.i + bs.length ≤ t.eng.work.n.toNat
  range : t.eng.work.ptr.toNat + t.eng.work.n.toNat ≤ 2 ^ p.addrW
  memory : t.mem.writeAll (t.eng.work.ptr.toNat + t.eng.work.i) bs = m

/-- As `Storing`, and RXB delivers those bytes next. -/
structure Receiving (p : Params) (ph : Phase) (cs : List Half) (m : Memory) (bs : List Byte) (t : State) : Prop
    extends Storing p ph cs m bs t where
  rxbs : ∃ rest, t.env.rxbs = bs ++ rest

section
variable {p : Params} {ph : Phase} {cs : List Half} {m : Memory}

theorem Storing.room_of_cons {b : Byte} {bs : List Byte} {t : State} (h : Storing p ph cs m (b :: bs) t) :
    t.eng.work.i < t.eng.work.n.toNat := by
  have := h.room
  rw [List.length_cons] at this
  omega

theorem storePayload_unloading : Unloading p storePayload (Receiving p ph cs m) where
  par h := h.par
  goto h _ := { h with }
  polled h := { h with }
  unload := by
    rintro b bs t ⟨h, rest, hrx⟩
    have hb : t.rxbAnswer = b := rxbAnswer_of_rxbs hrx
    have hroom := h.room_of_cons
    have hrange := h.range
    have ha : t.eng.work.ptr.toNat + t.eng.work.i < 2 ^ t.par.addrW := by rw [h.par]; omega
    refine ⟨_, storePayload_eq_ok.mpr ⟨ha, rfl⟩, ⟨by simp [hb], rfl, rfl⟩,
      ⟨h.par, h.phase, h.cnts, ?_, h.range, ?_⟩, ?_⟩
    · simpa [Nat.add_assoc, Nat.add_comm 1] using h.room
    · simpa [hb, Memory.writeAll, Nat.add_assoc] using h.memory
    · exact ⟨rest, by simp [hrx]⟩

end

/-- READBYTE: the bytes `bs`, one at most, are still to be taken, which makes the result `v`; memory is `m`. -/
structure Taking (p : Params) (v : Byte) (m : Memory) (bs : List Byte) (t : State) : Prop where
  par : t.par = p
  length : t.eng.work.n = 1#16
  room : t.eng.work.i + bs.length ≤ 1
  result : bs.headD t.eng.work.rbyte = v
  mem : t.mem = m
  rxbs : ∃ rest, t.env.rxbs = bs ++ rest

theorem Taking.index_of_cons {p : Params} {v : Byte} {m : Memory} {b : Byte} {bs : List Byte} {t : State}
    (h : Taking p v m (b :: bs) t) : t.eng.work.i = 0 ∧ bs = [] := by
  have := h.room
  rw [List.length_cons] at this
  exact ⟨by omega, List.length_eq_zero_iff.mp (by omega)⟩

theorem takeByte_unloading {p : Params} {v : Byte} {m : Memory} :
    Unloading p (fun t => .ok (takeByte t)) (Taking p v m) where
  par h := h.par
  goto h _ := { h with }
  polled h := { h with }
  unload := by
    intro b bs t h
    obtain ⟨hi, rfl⟩ := h.index_of_cons
    obtain ⟨rest, hrx⟩ := h.rxbs
    have hb : t.rxbAnswer = b := rxbAnswer_of_rxbs hrx
    refine ⟨_, rfl, ⟨by simp [takeByte, hb], rfl, rfl⟩, ⟨h.par, h.length, ?_, ?_, h.mem, rest, ?_⟩⟩
    · simp [takeByte, hi]
    · simpa [takeByte, hb] using h.result
    · simp [takeByte, hrx]

/-! ### The loop and the drain of READBYTE and READBYTES -/

section
variable {P : List Byte → State → Prop} {unload : State → Except Fault State} {p : Params}
  {own : DrainLine → SeqPos} {back qp qc qx : SeqPos}

/-- The rule for the two: the loop, then with READBYTES_DRAIN the drain (R68, R69, R71). -/
theorem Returns.plainRead
    (hloop : ReadLoop p P unload (fun st => st.active = true) (fun st => st.active = false) qp qc qx)
    (hd : IsDrain own back unload)
    (hexit : ∀ t, t.eng.seq = qx → engineLine t = .ok (t.goto (if t.par.readbytesDrain then own .D1 else back)))
    (hroom : ∀ {b bs t}, P (b :: bs) t → t.eng.work.i < t.eng.work.n.toNat)
    {s : State} {r : Result} {accs : List PortAccess} {m : Memory} {busy drain : List Snapshot} {last : Snapshot}
    {bytes : List Byte} (h : AtLine qp s) (hs : P bytes s)
    (hscript : ReadScript s.env p.drainWaits p.readbytesDrain busy last drain bytes)
    (hk : ∀ t, AtLine back t → P [] t → Returns t r accs m) :
    Returns s r (receiveTrace bytes (busy ++ [last]) ++
      (drain.map .poll ++ ((bytes.drop (rxCount busy)).map .readRxb ++ accs))) m := by
  obtain ⟨hactive, hlast, ⟨rest, hp⟩, hdrain, hlen, -⟩ := hscript
  have hsplit : bytes = bytes.take (rxCount busy) ++ bytes.drop (rxCount busy) := (List.take_append_drop ..).symm
  have htake : (bytes.take (rxCount busy)).length = rxCount busy := by simp [hlen]
  have hdrop : (bytes.drop (rxCount busy)).length = if p.readbytesDrain then 1 else 0 := by simp [hlen]
  generalize bytes.take (rxCount busy) = loopBytes at hsplit htake
  generalize bytes.drop (rxCount busy) = extra at hsplit hdrop ⊢
  subst hsplit
  refine .readLoop hloop h hs hp hactive hlast (by simp [hlast]) htake fun t h ht hp => ?_
  have hl := hexit t h.seq
  rw [hloop.unloading.par ht] at hl
  cases hrd : p.readbytesDrain with
  | false =>
    rw [hrd] at hl hdrain hdrop
    obtain rfl : drain = [] := hdrain
    obtain rfl : extra = [] := List.length_eq_zero_iff.mp hdrop
    exact .silent h hl rfl fun h => hk _ h (hloop.unloading.goto ht _)
  | true =>
    rw [hrd] at hl hdrain hdrop
    obtain ⟨b, rfl⟩ := List.length_eq_one_iff.mp hdrop
    refine .silent h hl rfl fun h => ?_
    have ht' := hloop.unloading.goto ht (own .D1)
    exact .drain hd hloop.unloading h ht' (hroom ht') hdrain hp hk

end

/-! ### READBYTES -/

theorem readbytesLoop {p : Params} {ph : Phase} {cs : List Half} {m : Memory} :
    ReadLoop p (Receiving p ph cs m) storePayload (fun st => st.active = true) (fun st => st.active = false)
      (.readbytes .L4) (.readbytes .L5) (.readbytes .L6) where
  unloading := storePayload_unloading
  active _ h := h
  stays _ hq ha := by simp [engineLine_readbytes hq, readbytesLine, ha]
  exits _ hq ha := by simp [engineLine_readbytes hq, readbytesLine, ha]
  collects h hq := by
    rw [engineLine_readbytes hq, readbytesLine, if_neg (Nat.not_le.mpr h.room_of_cons)]

/-- READBYTES from its first line to its return. -/
theorem returns_readbytes {s : State} (hu : Undisturbed s) (a7 : BusAddr) {ptr n : Half}
    (hrange : ptr.toNat + n.toNat ≤ 2 ^ s.par.addrW) {busy drain : List Snapshot} {last : Snapshot} {bytes : List Byte}
    (hscript : ReadScript s.env s.par.drainWaits s.par.readbytesDrain busy last drain bytes)
    (hlen : bytes.length ≤ n.toNat) {c : Half} {cs : List Half} (hc : s.env.cnts = c :: cs) :
    Returns (s.entered .readbytes a7 0#8 ptr n (.readbytes .L1)) (.success .readbytes (s.par.cntTrunc c == 0#16))
      (.writeAddr (addrbyte a7 true) :: .writeCnt n :: .start :: (receiveTrace bytes (busy ++ [last]) ++
        (drain.map .poll ++ ((bytes.drop (rxCount busy)).map .readRxb ++ [PortAccess.readCnt (s.par.cntTrunc c)]))))
      (s.mem.writeAll ptr.toNat bytes) := by
  have h : AtLine (.readbytes .L1) (s.entered .readbytes a7 0#8 ptr n (.readbytes .L1)) := .entered hu nofun
  have hn : lengthOf .readbytes n = n := rfl
  refine .line h (engineLine_readbytes h.seq) rfl fun h => ?_
  refine .line h (engineLine_readbytes h.seq) rfl fun h => ?_
  refine .line h (engineLine_readbytes h.seq) rfl fun h => ?_
  refine .plainRead (P := Receiving s.par .A (c :: cs) (s.mem.writeAll ptr.toNat bytes)) readbytesLoop readbytesDrain
    (fun _ => engineLine_readbytes) (fun h => h.room_of_cons) h ?_ (by simpa using hscript) fun t h ht => ?_
  · constructor
    · constructor <;> simp [entryWork, hn, hc, hrange, hlen]
    · simpa using hscript.rxbs
  · rw [← ht.memory, ← ht.par]
    exact .count h ht.cnts (engineLine_readbytes h.seq) fun _ => engineLine_readbytes

/-- Settles O50: the bytes stored are those of the loop and of the drain, and they read back in order. -/
theorem readbytesRuns : Obligations.ReadbytesRuns := by
  intro s a7 ptr n busy last drain bytes c restCnts hadm hu hwf hscript hlen hc
  obtain ⟨-, -, hrange⟩ := hadm.2.2 rfl
  refine ⟨_, enter_of_admitted hadm .., ?_⟩
  obtain ⟨k, t, hrun, ht⟩ := returns_readbytes hu a7 hrange hscript hlen hc
  refine ⟨k, t, hrun, ht.busy, ht.seq, ht.results, by simp [ht.trace], fun j b hj => ?_, fun a ha => ?_, ht.block⟩
  · rw [ht.mem, Memory.read_writeAll hwf _ hj]
  · rw [ht.mem, Memory.read_writeAll_outside hwf ha]

/-! ### READBYTE -/

theorem readbyteLoop {p : Params} {v : Byte} {m : Memory} :
    ReadLoop p (Taking p v m) (fun t => .ok (takeByte t)) (fun st => st.active = true) (fun st => st.active = false)
      (.readbyte .L4) (.readbyte .L5) (.readbyte .L6) where
  unloading := takeByte_unloading
  active _ h := h
  stays _ hq ha := by simp [engineLine_readbyte hq, readbyteLine, ha]
  exits _ hq ha := by simp [engineLine_readbyte hq, readbyteLine, ha]
  collects h hq := by
    rw [engineLine_readbyte hq, readbyteLine, if_neg (by simp [h.index_of_cons]), thenGoto]

/-- READBYTE from its first line to its return; it reads no count. -/
theorem returns_readbyte {s : State} (hu : Undisturbed s) (a7 : BusAddr) {busy drain : List Snapshot} {last : Snapshot}
    {bytes : List Byte} (hscript : ReadScript s.env s.par.drainWaits s.par.readbytesDrain busy last drain bytes)
    (hlen : bytes.length ≤ 1) :
    Returns (s.entered .readbyte a7 0#8 0#16 0#16 (.readbyte .L1)) (.byte (bytes.headD s.drawAnswer))
      (.writeAddr (addrbyte a7 true) :: .writeCnt 1#16 :: .start :: (receiveTrace bytes (busy ++ [last]) ++
        (drain.map .poll ++ ((bytes.drop (rxCount busy)).map .readRxb ++ [])))) s.mem := by
  have h : AtLine (.readbyte .L1) (s.entered .readbyte a7 0#8 0#16 0#16 (.readbyte .L1)) := .entered hu nofun
  have hn : lengthOf .readbyte 0#16 = 1#16 := rfl
  refine .line h (engineLine_readbyte h.seq) rfl fun h => ?_
  refine .line h (engineLine_readbyte h.seq) rfl fun h => ?_
  refine .line h (engineLine_readbyte h.seq) rfl fun h => ?_
  refine .plainRead (P := Taking s.par (bytes.headD s.drawAnswer) s.mem) readbyteLoop readbyteDrain
    (fun _ => engineLine_readbyte) (fun h => by simp [h.index_of_cons, h.length]) h ?_ ?_ fun t h ht => ?_
  · constructor <;> simp [entryWork, hn, hlen, State.drawAnswer, hscript.rxbs]
  · exact ⟨hscript.active, hscript.ended, by simpa using hscript.polls, hscript.drainPolls, hscript.received,
      by simpa using hscript.rxbs⟩
  · rw [← ht.mem, ← ht.result, List.headD_nil]
    exact .finish h (engineLine_readbyte h.seq)

/-- Settles O49: every access after the start is a poll or an unload. -/
theorem readbyteRuns : Obligations.ReadbyteRuns := by
  intro s a7 busy last drain bytes hadm hu hscript hlen
  refine ⟨_, enter_of_admitted hadm .., ?_⟩
  obtain ⟨k, t, hrun, ht⟩ := returns_readbyte hu a7 hscript hlen
  refine ⟨k, t, hrun, ht.busy, ht.seq, ht.results, ⟨receiveTrace bytes (busy ++ [last]) ++
    (drain.map .poll ++ (bytes.drop (rxCount busy)).map .readRxb), by simp [ht.trace], fun x hx => ?_⟩, ht.block,
    fun a => by rw [ht.mem]⟩
  simp only [List.mem_append] at hx
  obtain hx | hx | hx := hx
  · exact isRead_of_mem_receiveTrace x hx
  · exact isRead_of_mem_polls x hx
  · exact isRead_of_mem_unloads x hx

end Sys2Proof.Machine
end

section
/-! SUPPORT. REGWRRD from word to return (R70, R81): the write phase with its stale bytes, the restart, the read phase,
and the drain that runs whichever phase the loop ended in. -/

namespace Sys2Proof.Machine

/-- A last poll that shows no byte, or the transaction ended, only adds itself. -/
theorem receiveTrace_append_last {last : Snapshot} (h : ¬ (last.active = true ∧ last.rxbf = true)) (bs : List Byte)
    (ps : List Snapshot) : receiveTrace bs (ps ++ [last]) = receiveTrace bs ps ++ [.poll last] := by
  induction ps generalizing bs with
  | nil => rw [List.nil_append, receiveTrace_of_noByte h, receiveTrace_nil_right, List.nil_append]
  | cons p ps ih =>
    cases bs with
    | nil => simp [receiveTrace, ih]
    | cons b bs =>
      simp only [List.cons_append, receiveTrace, ih]
      split <;> rfl

/-- The write phase: RXB holds the stale bytes `bs`, and after them `bytes`, which are still to be stored. -/
structure Discarding (p : Params) (a7 : BusAddr) (n : Half) (cs : List Half) (m : Memory) (bytes bs : List Byte)
    (t : State) : Prop extends Storing p .A cs m bytes t where
  address : t.eng.work.a7 = a7
  length : t.eng.work.n = n
  rxbs : ∃ rest, t.env.rxbs = bs ++ (bytes ++ rest)

section
variable {p : Params} {a7 : BusAddr} {n : Half} {cs : List Half} {m : Memory} {bytes : List Byte}

theorem rxbRead_unloading : Unloading p (fun t => .ok t.rxbRead) (Discarding p a7 n cs m bytes) where
  par h := h.par
  goto h _ := { h with }
  polled h := { h with }
  unload := by
    intro b bs t h
    obtain ⟨rest, hrx⟩ := h.rxbs
    have hb : t.rxbAnswer = b := rxbAnswer_of_rxbs hrx
    exact ⟨_, rfl, ⟨by simp [hb], rfl, rfl⟩, { h with rxbs := ⟨rest, by simp [hrx]⟩ }⟩

/-- A poll that keeps REGWRRD in its write phase: a stale byte, or no free transmit register (R70 L6). -/
def KeepsWriting (st : Snapshot) : Prop := st.active = true ∧ (st.rxbf = true ∨ st.txbe = false)

/-- A poll that frees the restart: the bus held, the transmit register free and no byte (R70 L6, R78). -/
def FreesRestart (st : Snapshot) : Prop := st.active = true ∧ st.txbe = true ∧ st.rxbf = false

theorem regwrrd_poll {t : State} (h : t.eng.seq = .regwrrd .L6) :
    engineLine t = .ok (t.polled.goto (.regwrrd (regwrrdBranch t.pollAnswer t.eng.work.phase))) := by
  rw [engineLine_regwrrd h, regwrrdLine]

/-- With the transaction ended REGWRRD leaves its loop, in either phase. -/
theorem regwrrdBranch_of_idle {st : Snapshot} (h : st.active = false) (ph : Phase) : regwrrdBranch st ph = .L12 := by
  simp [regwrrdBranch, h]

theorem writePhase :
    ReadLoop p (Discarding p a7 n cs m bytes) (fun t => .ok t.rxbRead) KeepsWriting FreesRestart
      (.regwrrd .L6) (.regwrrd .L7) (.regwrrd .L8) where
  unloading := rxbRead_unloading
  active _ h := h.1
  stays h hq hst := by
    obtain ⟨ha, hbyte | htx⟩ := hst
    · simp [regwrrd_poll hq, h.phase, regwrrdBranch, ha, hbyte]
    · simp [regwrrd_poll hq, h.phase, regwrrdBranch, ha, htx, apply_ite SeqPos.regwrrd]
  exits h hq hst := by
    obtain ⟨ha, htx, hbyte⟩ := hst
    simp [regwrrd_poll hq, h.phase, regwrrdBranch, ha, htx, hbyte]
  collects h hq := engineLine_regwrrd hq

theorem readPhase :
    ReadLoop p (Receiving p .B cs m) storePayload (fun st => st.active = true) (fun st => st.active = false)
      (.regwrrd .L6) (.regwrrd .L11) (.regwrrd .L12) where
  unloading := storePayload_unloading
  active _ h := h
  stays h hq ha := by simp [regwrrd_poll hq, h.phase, regwrrdBranch, ha, apply_ite SeqPos.regwrrd]
  exits _ hq ha := by rw [regwrrd_poll hq, regwrrdBranch_of_idle ha]
  collects h hq := by
    rw [engineLine_regwrrd hq, regwrrdLine, if_neg (Nat.not_le.mpr h.room_of_cons)]

end

/-- REGWRRD from the end of its loop on: the drain of one byte and the count. -/
theorem returns_regwrrd_end {p : Params} {ph : Phase} {c : Half} {cs : List Half} {m : Memory} {b : Byte}
    {drain rest : List Snapshot} {s : State} (h : AtLine (.regwrrd .L12) s) (hs : Receiving p ph (c :: cs) m [b] s)
    (hdrain : DrainPolls p.drainWaits drain) (hp : s.env.polls = drain ++ rest) :
    Returns s (.success .regwrrd (p.cntTrunc c == 0#16))
      (drain.map PortAccess.poll ++ [.readRxb b, .readCnt (p.cntTrunc c)]) m := by
  refine .silent h (engineLine_regwrrd h.seq) rfl fun h => ?_
  have hs' := storePayload_unloading.goto hs (.regwrrd (.drain .D1))
  refine .drain regwrrdDrain storePayload_unloading h hs' hs'.room_of_cons hdrain hp fun t h ht => ?_
  rw [← ht.memory, ← ht.par]
  exact .count h ht.cnts (engineLine_regwrrd h.seq) fun _ => engineLine_regwrrd

/-- The rule for the five lines up to the start (R70 L1 to L5). -/
theorem Returns.regwrrdStart {s : State} (hu : Undisturbed s) {a7 : BusAddr} {reg : Byte} {ptr n : Half} {r : Result}
    {accs : List PortAccess} {m : Memory}
    (hk : ∀ t, AtLine (.regwrrd .L6) t → t.par = s.par → t.env = s.env → t.mem = s.mem →
      t.eng.work = entryWork s.eng.work .regwrrd a7 reg ptr n → Returns t r accs m) :
    Returns (s.entered .regwrrd a7 reg ptr n (.regwrrd .L1)) r
      (.writeAddr (addrbyte a7 false) :: .writeTxb reg :: .writeCnt 1#16 :: .writeRsen :: .start :: accs) m := by
  have h : AtLine (.regwrrd .L1) (s.entered .regwrrd a7 reg ptr n (.regwrrd .L1)) := .entered hu nofun
  refine .line h (engineLine_regwrrd h.seq) rfl fun h => ?_
  refine .line h (engineLine_regwrrd h.seq) rfl fun h => ?_
  refine .line h (engineLine_regwrrd h.seq) rfl fun h => ?_
  refine .line h (engineLine_regwrrd h.seq) rfl fun h => ?_
  refine .line h (engineLine_regwrrd h.seq) rfl fun h => ?_
  exact hk _ h (by simp) (by simp) (by simp) (by simp [entryWork])

/-- After the entry of REGWRRD the bytes to come are to be stored from `ptr`. -/
theorem Storing.of_entry {s t : State} {a7 : BusAddr} {reg : Byte} {ptr n : Half} {bytes : List Byte}
    (hpar : t.par = s.par) (henv : t.env = s.env) (hmem : t.mem = s.mem)
    (hw : t.eng.work = entryWork s.eng.work .regwrrd a7 reg ptr n) (hlen : bytes.length ≤ n.toNat)
    (hrange : ptr.toNat + n.toNat ≤ 2 ^ s.par.addrW) :
    Storing s.par .A s.env.cnts (s.mem.writeAll ptr.toNat bytes) bytes t := by
  have hn : lengthOf .regwrrd n = n := rfl
  constructor <;> simp [hpar, henv, hmem, hw, entryWork, hn, hlen, hrange]

/-- The rule for the restart (R70 L8 to L10): the same bytes are to be stored, now in the read phase. -/
theorem Returns.restart {s : State} {r : Result} {accs : List PortAccess} {m : Memory} (h : AtLine (.regwrrd .L8) s)
    (hk : ∀ t, AtLine (.regwrrd .L6) t → t.env = s.env →
      (∀ {p cs m bs}, Storing p .A cs m bs s → Storing p .B cs m bs t) → Returns t r accs m) :
    Returns s r (.writeAddr (addrbyte s.eng.work.a7 false ^^^ 1#8) :: .writeCnt s.eng.work.n :: .start :: accs) m := by
  refine .line h (engineLine_regwrrd h.seq) rfl fun h => ?_
  refine .line h (engineLine_regwrrd h.seq) rfl fun h => ?_
  refine .line h (engineLine_regwrrd h.seq) rfl fun h => ?_
  refine hk _ h (by simp) fun hs => ?_
  constructor <;> simp [hs.par, hs.cnts, hs.room, hs.range, hs.memory]

/-- Settles O52: the idle poll in the write phase, then the drain. -/
theorem combinedReadAfterNack : Obligations.CombinedReadAfterNack := by
  intro s a7 reg ptr n idle drain b c restPolls restRxbs restCnts hadm hu hwf hidle hdrain hp hrx hc
  obtain ⟨hpos, -, hrange⟩ := hadm.2.2 rfl
  refine ⟨_, enter_of_admitted hadm .., ?_⟩
  have hret : Returns (s.entered .regwrrd a7 reg ptr n (.regwrrd .L1))
      (.success .regwrrd (s.par.cntTrunc c == 0#16))
      (.writeAddr (addrbyte a7 false) :: .writeTxb reg :: .writeCnt 1#16 :: .writeRsen :: .start :: .poll idle ::
        (drain.map PortAccess.poll ++ [.readRxb b, .readCnt (s.par.cntTrunc c)])) (s.mem.writeAll ptr.toNat [b]) := by
    refine .regwrrdStart hu fun t h hpar henv hmem hw => ?_
    have hst := Storing.of_entry (bytes := [b]) hpar henv hmem hw hpos hrange
    rw [hc] at hst
    have ht : Receiving s.par .A (c :: restCnts) (s.mem.writeAll ptr.toNat [b]) [b] t :=
      ⟨hst, restRxbs, by rw [henv, hrx]; rfl⟩
    have hp' : t.env.polls = idle :: (drain ++ restPolls) := by rw [henv, hp]
    have hl := regwrrd_poll h.seq
    rw [pollAnswer_of_polls hp', regwrrdBranch_of_idle hidle] at hl
    refine .poll h hp' hl fun h hp => ?_
    exact returns_regwrrd_end h (storePayload_unloading.goto (storePayload_unloading.polled ht) _) hdrain hp
  obtain ⟨k, t, hrun, ht⟩ := hret
  refine ⟨k, t, hrun, ht.busy, ht.results, by simp [ht.trace], ?_, fun a ha => ?_, ht.block⟩
  · rw [ht.mem]
    exact Memory.read_writeAll (j := 0) hwf ptr.toNat rfl
  · rw [ht.mem]
    exact Memory.read_writeAll_outside hwf ha

/-- REGWRRD from its first line to its return, against a port that conforms. -/
theorem returns_regwrrd {s : State} (hu : Undisturbed s) (a7 : BusAddr) (reg : Byte) {ptr n : Half}
    (hrange : ptr.toNat + n.toNat ≤ 2 ^ s.par.addrW) {phaseA phaseB drain restPolls : List Snapshot}
    {go idle : Snapshot} {stale bytes restRxbs : List Byte} {b : Byte} {c : Half} {restCnts : List Half}
    (hA : ∀ st ∈ phaseA, KeepsWriting st) (hgo : FreesRestart go) (hB : AllActive phaseB)
    (hbytes : bytes.length = rxCount phaseB) (hlen : (bytes ++ [b]).length ≤ n.toNat) (hidle : idle.active = false)
    (hdrain : DrainPolls s.par.drainWaits drain) (hstale : stale.length = rxCount phaseA)
    (hp : s.env.polls = phaseA ++ go :: (phaseB ++ idle :: (drain ++ restPolls)))
    (hrx : s.env.rxbs = stale ++ (bytes ++ [b] ++ restRxbs)) (hc : s.env.cnts = c :: restCnts) :
    Returns (s.entered .regwrrd a7 reg ptr n (.regwrrd .L1)) (.success .regwrrd (s.par.cntTrunc c == 0#16))
      (.writeAddr (addrbyte a7 false) :: .writeTxb reg :: .writeCnt 1#16 :: .writeRsen :: .start ::
        (receiveTrace (stale ++ []) (phaseA ++ [go]) ++
          PortAccess.writeAddr (addrbyte a7 false ^^^ 1#8) :: .writeCnt n :: .start ::
            (receiveTrace (bytes ++ [b]) (phaseB ++ [idle]) ++
              (drain.map PortAccess.poll ++ [.readRxb b, .readCnt (s.par.cntTrunc c)]))))
      (s.mem.writeAll ptr.toNat (bytes ++ [b])) := by
  refine .regwrrdStart hu fun t h hpar henv hmem hw => ?_
  have hst := Storing.of_entry hpar henv hmem hw hlen hrange
  have hn : lengthOf .regwrrd n = n := rfl
  have ht : Discarding s.par a7 n s.env.cnts (s.mem.writeAll ptr.toNat (bytes ++ [b])) (bytes ++ [b]) (stale ++ []) t :=
    ⟨hst, by simp [hw, entryWork], by simp [hw, entryWork, hn], restRxbs, by simp [henv, hrx]⟩
  refine .readLoop writePhase h ht (by rw [henv, hp]) hA hgo (by simp [hgo.2.2]) hstale fun t h ht hp => ?_
  rw [← ht.address, ← ht.length]
  refine .restart h fun u h henv hstore => ?_
  have hu : Receiving s.par .B s.env.cnts (s.mem.writeAll ptr.toNat (bytes ++ [b])) (bytes ++ [b]) u :=
    ⟨hstore ht.toStoring, henv ▸ ht.rxbs⟩
  refine .readLoop readPhase h hu (henv ▸ hp) hB hidle (by simp [hidle]) hbytes fun v h hv hp => ?_
  exact returns_regwrrd_end h (hc ▸ hv) hdrain hp

/-- Settles O51: the scripted port keeps the write phase until it frees the restart, and then shows all bytes but the
last, which the drain takes. -/
theorem combinedReadIsExact : Obligations.CombinedReadIsExact := by
  rintro s a7 reg ptr n bytes hadm hu hwf hn ⟨phaseA, go, phaseB, idle, drain, stale, restPolls, restRxbs, restCnts, c,
    hactive, hA, hgoActive, hgoTx, hgoRx, hB, hlen, hidle, hdrain, hstale, hp, hrx, hc, hzero⟩
  obtain ⟨-, -, hrange⟩ := hadm.2.2 rfl
  obtain ⟨received, b, rfl⟩ : ∃ bs b, bytes = bs ++ [b] :=
    (List.eq_nil_or_concat' bytes).resolve_left (by rintro rfl; cases hlen)
  refine ⟨_, enter_of_admitted hadm .., ?_⟩
  obtain ⟨k, t, hrun, ht⟩ := returns_regwrrd hu a7 reg hrange (fun st hst => ⟨hactive st hst, hA st hst⟩)
    ⟨hgoActive, hgoTx, hgoRx⟩ hB (by simpa using hlen.symm) hn.le hidle hdrain hstale hp
    (by rw [hrx, List.append_assoc]) hc
  rw [hzero, receiveTrace_append_last (by simp [hgoRx]), List.append_nil] at ht
  refine ⟨k, t, hrun, ht.busy, ht.seq, ht.results, ⟨receiveTrace stale phaseA,
    receiveTrace (received ++ [b]) (phaseB ++ [idle]) ++ (drain.map PortAccess.poll ++ [b].map .readRxb), go, hgoActive,
    hgoTx, hgoRx, by simp [ht.trace], fun x hx => ?_⟩, fun j x hj => ?_, fun a ha => ?_, ht.block⟩
  · simp only [List.mem_append] at hx
    obtain hx | hx | hx | hx := hx
    · exact isRead_of_mem_receiveTrace x hx
    · exact isRead_of_mem_receiveTrace x hx
    · exact isRead_of_mem_polls x hx
    · exact isRead_of_mem_unloads x hx
  · rw [ht.mem, Memory.read_writeAll hwf _ hj]
  · rw [ht.mem, Memory.read_writeAll_outside hwf (by rwa [hn])]

end Sys2Proof.Machine
end

section
/-! SUPPORT. SENDBYTE and SENDBYTES of length 1 run line by line alike (R66, R67): the second has one line more, the
load of a later byte, which a length of 1 never reaches. -/

namespace Sys2Proof.Machine

/-- The line of SENDBYTES at which it does what SENDBYTE does at its own. -/
def mirrorLine : SendbyteLine → SendbytesLine
  | .L1 => .L1
  | .L2 => .L2
  | .L3 => .L3
  | .L4 => .L4
  | .L5 => .L5
  | .L6 => .L7
  | .L7 => .L8

/-- A state of SENDBYTE at line `l` as one of SENDBYTES of the one byte at `ptr`. -/
def State.asSendbytes (t : State) (ptr : Half) (l : SendbyteLine) : State :=
  { t with eng := { t.eng with
      seq := .sendbytes (mirrorLine l)
      work := { t.eng.work with op := .sendbytes, d8 := 0#8, ptr := ptr, n := 1#16 } } }

/-- SENDBYTE runs at line `l`, its data is the byte of memory at `ptr`, and since `s` nothing was returned. -/
structure SendsByteAt (s : State) (ptr : Half) (l : SendbyteLine) (t : State) : Prop where
  seq : t.eng.seq = .sendbyte l
  data : t.eng.work.d8 = t.mem.read ptr.toNat
  address : ptr.toNat < 2 ^ t.par.addrW
  index : l = .L5 → t.eng.work.i = 1
  results : t.hist.results = s.hist.results

/-- `u` is SENDBYTES's state where `t` is SENDBYTE's: both run, or both returned the same. -/
inductive Mirrors (s : State) (ptr : Half) : State → State → Prop
  | running {l : SendbyteLine} {t : State} (h : SendsByteAt s ptr l t) : Mirrors s ptr t (t.asSendbytes ptr l)
  | returned {t u : State} (b : Bool) (ht : t.eng.seq = .idle) (hu : u.eng.seq = .idle)
      (htrace : u.hist.trace = t.hist.trace) (hmem : u.mem = t.mem) (hbusy : u.eng.busy = t.eng.busy)
      (htres : t.hist.results = s.hist.results ++ [.success .sendbyte b])
      (hures : u.hist.results = s.hist.results ++ [.success .sendbytes b]) : Mirrors s ptr t u

section
variable {s t u : State} {ptr : Half}

theorem Mirrors.agree (h : Mirrors s ptr t u) :
    u.hist.trace = t.hist.trace ∧ u.mem = t.mem ∧ u.eng.busy = t.eng.busy ∧
      ((t.hist.results = s.hist.results ∧ u.hist.results = s.hist.results) ∨
        ∃ b, t.hist.results = s.hist.results ++ [.success .sendbyte b] ∧
          u.hist.results = s.hist.results ++ [.success .sendbytes b]) := by
  cases h with
  | running h => exact ⟨rfl, rfl, rfl, .inl ⟨h.results, h.results⟩⟩
  | returned b _ _ htrace hmem hbusy htres hures => exact ⟨htrace, hmem, hbusy, .inr ⟨b, htres, hures⟩⟩

/-- With its one byte sent SENDBYTES only asks whether the transaction runs, as SENDBYTE does. -/
theorem sendbytes_poll_of_one (h : u.eng.seq = .sendbytes .L5) (hi : u.eng.work.i = 1) (hn : u.eng.work.n = 1#16) :
    engineLine u = .ok (u.polled.goto (if u.pollAnswer.active then .sendbytes .L5 else .sendbytes .L7)) := by
  cases ha : u.pollAnswer.active <;> simp [engineLine_sendbytes h, sendbytesLine, ha, hi, hn]

/-- Each line of SENDBYTE has its mirror. -/
theorem SendsByteAt.step {l : SendbyteLine} (h : SendsByteAt s ptr l t) {t' : State} (hl : engineLine t = .ok t') :
    ∃ u, engineLine (t.asSendbytes ptr l) = .ok u ∧ Mirrors s ptr t' u := by
  rw [engineLine_sendbyte h.seq] at hl
  have hm : engineLine (t.asSendbytes ptr l) = sendbytesLine (mirrorLine l) (t.asSendbytes ptr l) :=
    engineLine_sendbytes rfl
  cases l <;> cases hl
  case L1 => exact ⟨_, hm, .running (l := .L2) ⟨rfl, h.data, h.address, nofun, h.results⟩⟩
  case L2 => exact ⟨_, hm, .running (l := .L3) ⟨rfl, h.data, h.address, nofun, h.results⟩⟩
  case L3 =>
    rw [h.data]
    exact ⟨_, sendbytes_firstLoad rfl h.address, .running (l := .L4) ⟨rfl, h.data, h.address, nofun, h.results⟩⟩
  case L4 =>
    exact ⟨_, hm, .running (l := .L5) ⟨rfl, h.data, h.address, fun _ => rfl, h.results⟩⟩
  case L5 =>
    have hi := h.index rfl
    have hp : engineLine (t.asSendbytes ptr .L5) = _ := sendbytes_poll_of_one rfl hi rfl
    rw [show (t.asSendbytes ptr .L5).pollAnswer = t.pollAnswer from rfl] at hp
    refine ⟨_, hp, ?_⟩
    split
    · exact .running (l := .L5) ⟨rfl, h.data, h.address, fun _ => hi, h.results⟩
    · exact .running (l := .L6) ⟨rfl, h.data, h.address, nofun, h.results⟩
  case L6 => exact ⟨_, hm, .running (l := .L7) ⟨rfl, h.data, h.address, nofun, h.results⟩⟩
  case L7 =>
    refine ⟨_, hm, .returned t.eng.work.ok rfl rfl rfl rfl rfl ?_ ?_⟩
    · simp [h.results]
    · simp [State.asSendbytes, h.results]

theorem Mirrors.step (h : Mirrors s ptr t u) {t' : State} (hl : engineLine t = .ok t') :
    ∃ u', engineLine u = .ok u' ∧ Mirrors s ptr t' u' := by
  cases h with
  | running h => exact h.step hl
  | returned b ht hu htrace hmem hbusy htres hures =>
    rw [engineLine, ht] at hl
    cases hl
    exact ⟨u, by rw [engineLine, hu], .returned b ht hu htrace hmem hbusy htres hures⟩

/-- As many lines of the one as of the other. -/
theorem Mirrors.lines {k : Nat} (h : Mirrors s ptr t u) {t' : State} (hl : engineLines k t = .ok t') :
    ∃ u', engineLines k u = .ok u' ∧ Mirrors s ptr t' u' := by
  induction k generalizing t u with
  | zero =>
    cases hl
    exact ⟨u, rfl, h⟩
  | succ k ih =>
    rw [engineLines] at hl
    split at hl
    · rename_i v hv
      obtain ⟨w, hw, hvw⟩ := h.step hv
      obtain ⟨u', hu', h'⟩ := ih hvw hl
      exact ⟨u', by simp only [engineLines, hw, hu'], h'⟩
    · cases hl

end

/-- Settles O48: the two entries leave mirrored states, and so do as many lines. -/
theorem sendbyteIsSendbytesOfOne : Obligations.SendbyteIsSendbytesOfOne := by
  intro s t u a7 ptr ht hu k t' hl
  simp only [exec, execSendbyte] at ht
  simp only [exec, execSendbytes] at hu
  obtain ⟨-, -, -, rfl⟩ := enter_eq_next.mp ht
  obtain ⟨-, -, hadm, rfl⟩ := enter_eq_next.mp hu
  have haddr : ptr.toNat < 2 ^ s.par.addrW := Nat.lt_of_succ_le (operandRefusal_eq_none.mp hadm rfl).2.2
  have hm : Mirrors s ptr (s.entered .sendbyte a7 (s.mem.read ptr.toNat) 0#16 0#16 (.sendbyte .L1))
      (s.entered .sendbytes a7 0#8 ptr 1#16 (.sendbytes .L1)) :=
    .running (l := .L1) ⟨rfl, rfl, haddr, nofun, rfl⟩
  obtain ⟨u', hu', h'⟩ := hm.lines hl
  exact ⟨u', hu', h'.agree⟩

end Sys2Proof.Machine
end

section
/-! SUPPORT. No timeout (R72): a command stays in its loop for as long as polls show the transaction running, and it has
a next line for as long as they show no byte too many. -/

namespace Sys2Proof.Machine

/-- The lines that unload a received byte inside a loop (R68 L5, R69 L5, R70 L11). -/
def SeqPos.collects : SeqPos → Bool
  | .readbyte .L5 => true
  | .readbytes .L5 => true
  | .regwrrd .L11 => true
  | _ => false

/-- A position of a loop, and after a poll without a byte not one that collects. -/
def StaysInLoop (st : Snapshot) (q : SeqPos) : Prop := q.inLoop = true ∧ (st.rxbf = false → q.collects = false)

section
variable {s t : State}

theorem sendbyteLine_stays {l : SendbyteLine} (hq : SeqPos.inLoop (.sendbyte l) = true)
    (ha : s.pollAnswer.active = true) (h : sendbyteLine l s = .ok t) : StaysInLoop s.pollAnswer t.eng.seq := by
  cases l <;> cases hq <;> cases h
  case L5 => simp [ha, StaysInLoop, SeqPos.inLoop, SeqPos.collects]
  all_goals exact ⟨rfl, fun _ => rfl⟩

theorem sendbytesLine_stays {l : SendbytesLine} (hq : SeqPos.inLoop (.sendbytes l) = true)
    (ha : s.pollAnswer.active = true) (h : sendbytesLine l s = .ok t) : StaysInLoop s.pollAnswer t.eng.seq := by
  cases l <;> cases hq
  case L3 =>
    obtain ⟨u, -, rfl⟩ := thenGoto_eq_ok.mp h
    exact ⟨rfl, fun _ => rfl⟩
  case L5 =>
    cases h
    rw [if_neg (by simp [ha])]
    split <;> exact ⟨rfl, fun _ => rfl⟩
  case L6 =>
    simp only [sendbytesLine] at h
    split at h <;> cases h
    exact ⟨rfl, fun _ => rfl⟩
  all_goals cases h; exact ⟨rfl, fun _ => rfl⟩

theorem readbyteLine_stays {l : ReadbyteLine} (hq : SeqPos.inLoop (.readbyte l) = true)
    (ha : s.pollAnswer.active = true) (h : readbyteLine l s = .ok t) : StaysInLoop s.pollAnswer t.eng.seq := by
  cases l <;> cases hq
  case L4 =>
    cases h
    rw [if_neg (by simp [ha])]
    split
    · exact ⟨rfl, by simp [*]⟩
    · exact ⟨rfl, fun _ => rfl⟩
  case L5 =>
    simp only [readbyteLine] at h
    split at h <;> cases h
    exact ⟨rfl, fun _ => rfl⟩
  all_goals cases h; exact ⟨rfl, fun _ => rfl⟩

theorem readbytesLine_stays {l : ReadbytesLine} (hq : SeqPos.inLoop (.readbytes l) = true)
    (ha : s.pollAnswer.active = true) (h : readbytesLine l s = .ok t) : StaysInLoop s.pollAnswer t.eng.seq := by
  cases l <;> cases hq
  case L4 =>
    cases h
    rw [if_neg (by simp [ha])]
    split
    · exact ⟨rfl, by simp [*]⟩
    · exact ⟨rfl, fun _ => rfl⟩
  case L5 =>
    simp only [readbytesLine] at h
    split at h
    · cases h
    · obtain ⟨u, -, rfl⟩ := thenGoto_eq_ok.mp h
      exact ⟨rfl, fun _ => rfl⟩
  all_goals cases h; exact ⟨rfl, fun _ => rfl⟩

theorem regwrrdBranch_stays {st : Snapshot} (ha : st.active = true) (ph : Phase) :
    StaysInLoop st (.regwrrd (regwrrdBranch st ph)) := by
  rw [regwrrdBranch.eq_def, if_neg (by simp [ha])]
  cases ph
  case A => dsimp only; split_ifs <;> exact ⟨rfl, fun _ => rfl⟩
  case B =>
    dsimp only
    split_ifs
    · exact ⟨rfl, by simp [*]⟩
    · exact ⟨rfl, fun _ => rfl⟩

theorem regwrrdLine_stays {l : RegwrrdLine} (hq : SeqPos.inLoop (.regwrrd l) = true)
    (ha : s.pollAnswer.active = true) (h : regwrrdLine l s = .ok t) : StaysInLoop s.pollAnswer t.eng.seq := by
  cases l <;> cases hq
  case L6 =>
    cases h
    exact regwrrdBranch_stays ha _
  case L11 =>
    simp only [regwrrdLine] at h
    split at h
    · cases h
    · obtain ⟨u, -, rfl⟩ := thenGoto_eq_ok.mp h
      exact ⟨rfl, fun _ => rfl⟩
  all_goals cases h; exact ⟨rfl, fun _ => rfl⟩

/-- Where the transaction runs, no line leaves a loop. -/
theorem engineLine_stays (hq : s.eng.seq.inLoop = true) (ha : s.pollAnswer.active = true) (h : engineLine s = .ok t) :
    StaysInLoop s.pollAnswer t.eng.seq := by
  rw [engineLine] at h
  split at h <;> rename_i hs <;> rw [hs] at hq
  · cases hq
  · exact sendbyteLine_stays hq ha h
  · exact sendbytesLine_stays hq ha h
  · exact readbyteLine_stays hq ha h
  · exact readbytesLine_stays hq ha h
  · exact regwrrdLine_stays hq ha h

/-- An access takes one poll at most off the script. -/
theorem LineAccess.polls {accs : List PortAccess} (h : LineAccess s accs t) :
    t.env.polls = s.env.polls ∨ t.env.polls = s.env.polls.tail := by
  cases h with
  | poll => exact .inr rfl
  | _ => exact .inl rfl

theorem engineLine_polls (h : engineLine s = .ok t) :
    t.env.polls = s.env.polls ∨ t.env.polls = s.env.polls.tail := by
  obtain ⟨accs, u, q, w, ha, -, rfl⟩ | ⟨r, rfl⟩ := engineLine_step h
  · exact ha.polls
  · exact .inl rfl

end

/-- A command in its loop, whose scripted polls all show the transaction running. -/
structure Waiting (s : State) : Prop where
  undisturbed : Undisturbed s
  busy : s.eng.busy = true
  loop : s.eng.seq.inLoop = true
  active : AllActive s.env.polls

section
variable {s t : State}

theorem Waiting.atLine (h : Waiting s) : AtLine s.eng.seq s :=
  ⟨h.undisturbed, h.busy, rfl, fun hq => by have := h.loop; rw [hq] at this; cases this⟩

/-- With a poll scripted the answer is one of the script. -/
theorem pollAnswer_mem {k : Nat} (h : k + 1 ≤ s.env.polls.length) : s.pollAnswer ∈ s.env.polls := by
  obtain ⟨p, ps, hp⟩ := List.exists_cons_of_length_pos (show 0 < s.env.polls.length by omega)
  rw [pollAnswer_of_polls hp, hp]
  exact List.mem_cons_self

/-- One line on the command waits still, has returned nothing, and has used up one poll at most. -/
theorem Waiting.next (h : Waiting s) {k : Nat} (hk : k + 1 ≤ s.env.polls.length) (hl : engineLine s = .ok t) :
    Waiting t ∧ t.hist.results = s.hist.results ∧ k ≤ t.env.polls.length ∧ ∀ p ∈ t.env.polls, p ∈ s.env.polls := by
  have hstay := engineLine_stays h.loop (h.active _ (pollAnswer_mem hk)) hl
  have hsub : ∀ p ∈ t.env.polls, p ∈ s.env.polls := by
    obtain hp | hp := engineLine_polls hl <;> rw [hp]
    · exact fun _ => id
    · exact fun _ => List.mem_of_mem_tail
  have hlen : k ≤ t.env.polls.length := by
    obtain hp | hp := engineLine_polls hl <;> rw [hp]
    · omega
    · rw [List.length_tail]
      omega
  have hb : t.eng.busy = true := by
    obtain ⟨accs, u, q, w, ha, -, rfl⟩ | ⟨r, rfl⟩ := engineLine_step hl
    · obtain ⟨-, -, heng, -⟩ := ha.frame
      simp [heng, h.busy]
    · cases hstay.1
  obtain ⟨ht, hres⟩ := h.atLine.next hl hb
  exact ⟨⟨ht.undisturbed, hb, hstay.1, fun p hp => h.active p (hsub p hp)⟩, hres, hlen, hsub⟩

/-- As many steps as polls are scripted, if they complete, leave the command waiting. -/
theorem Waiting.run {k : Nat} (h : Waiting s) (hk : k ≤ s.env.polls.length) (hrun : core.run k s = .next t) :
    Waiting t ∧ t.hist.results = s.hist.results := by
  induction k generalizing s with
  | zero =>
    cases hrun
    exact ⟨h, rfl⟩
  | succ k ih =>
    obtain ⟨u, hstep, hrest⟩ := step_of_run hrun
    rw [step_engine h.undisturbed h.busy h.atLine.ne_idle] at hstep
    obtain ⟨hu, hres, hlen, -⟩ := h.next hk (ofExcept_eq_next.mp hstep)
    obtain ⟨ht, hres'⟩ := ih hu hlen hrest
    exact ⟨ht, hres'.trans hres⟩

/-- There is room for the byte that a collecting line unloads. -/
structure RoomToCollect (s : State) : Prop where
  one : s.eng.seq = .readbyte .L5 → s.eng.work.i = 0
  many : s.eng.seq = .readbytes .L5 ∨ s.eng.seq = .regwrrd .L11 → s.eng.work.i < s.eng.work.n.toNat

theorem RoomToCollect.of_not_collects (h : s.eng.seq.collects = false) : RoomToCollect s := by
  constructor
  · intro hq
    rw [hq] at h
    cases h
  · rintro (hq | hq) <;> (rw [hq] at h; cases h)

/-- A payload byte that there is room for has an address (R44). -/
theorem EngInv.address_lt (he : EngInv s.par s.eng) {op : CtrlOp} (hop : s.eng.seq.op = some op)
    (hpay : hasPayload op = true) {k : Nat} (hk : k < s.eng.work.n.toNat) :
    s.eng.work.ptr.toNat + k < 2 ^ s.par.addrW := by
  have hb : s.eng.busy = true := he.busy.mpr fun hq => by rw [hq] at hop; cases hop
  have := he.payload hb (by rwa [he.op op hop])
  omega

/-- With room a received byte is stored, and the command goes on. -/
theorem storePayload_completes (ha : s.eng.work.ptr.toNat + s.eng.work.i < 2 ^ s.par.addrW) (q : SeqPos) :
    ∃ t, thenGoto (storePayload s) q = .ok t :=
  ⟨_, thenGoto_eq_ok.mpr ⟨_, storePayload_eq_ok.mpr ⟨ha, rfl⟩, rfl⟩⟩

theorem sendbytesLine_completes {l : SendbytesLine} (hs : s.eng.seq = .sendbytes l)
    (hfirst : s.eng.work.ptr.toNat < 2 ^ s.par.addrW)
    (hload : l = .L6 → s.eng.work.ptr.toNat + s.eng.work.i < 2 ^ s.par.addrW) : ∃ t, engineLine s = .ok t := by
  cases l
  case L3 => exact ⟨_, sendbytes_firstLoad hs hfirst⟩
  case L6 => exact ⟨_, sendbytes_load hs (hload rfl)⟩
  all_goals exact ⟨_, engineLine_sendbytes hs⟩

theorem readbyteLine_completes {l : ReadbyteLine} (hq : SeqPos.inLoop (.readbyte l) = true)
    (hi : l = .L5 → s.eng.work.i = 0) : ∃ t, readbyteLine l s = .ok t := by
  cases l <;> cases hq
  case L5 =>
    rw [readbyteLine, if_neg (by simp [hi])]
    exact ⟨_, rfl⟩
  all_goals exact ⟨_, rfl⟩

theorem readbytesLine_completes {l : ReadbytesLine} (hq : SeqPos.inLoop (.readbytes l) = true)
    (hi : l = .L5 → s.eng.work.i < s.eng.work.n.toNat)
    (ha : l = .L5 → s.eng.work.ptr.toNat + s.eng.work.i < 2 ^ s.par.addrW) : ∃ t, readbytesLine l s = .ok t := by
  cases l <;> cases hq
  case L5 =>
    rw [readbytesLine, if_neg (Nat.not_le.mpr (hi rfl))]
    exact storePayload_completes (ha rfl) _
  all_goals exact ⟨_, rfl⟩

theorem regwrrdLine_completes {l : RegwrrdLine} (hq : SeqPos.inLoop (.regwrrd l) = true)
    (hi : l = .L11 → s.eng.work.i < s.eng.work.n.toNat)
    (ha : l = .L11 → s.eng.work.ptr.toNat + s.eng.work.i < 2 ^ s.par.addrW) : ∃ t, regwrrdLine l s = .ok t := by
  cases l <;> cases hq
  case L11 =>
    rw [regwrrdLine, if_neg (Nat.not_le.mpr (hi rfl))]
    exact storePayload_completes (ha rfl) _
  all_goals exact ⟨_, rfl⟩

/-- In a loop only a byte too many stops a command (R111). -/
theorem EngInv.engineLine_completes (he : EngInv s.par s.eng) (hq : s.eng.seq.inLoop = true) (hr : RoomToCollect s) :
    ∃ t, engineLine s = .ok t := by
  have hb : s.eng.busy = true := he.busy.mpr fun h => by rw [h] at hq; cases hq
  rcases hs : s.eng.seq with _ | l | l | l | l | l <;> rw [hs] at hq
  case idle => cases hq
  case sendbyte =>
    rw [engineLine_sendbyte hs]
    cases l <;> exact ⟨_, rfl⟩
  case sendbytes =>
    have hop : s.eng.seq.op = some .sendbytes := by rw [hs]; rfl
    exact sendbytesLine_completes hs (he.address_lt hop rfl (he.length hb).1) fun hl =>
      he.address_lt hop rfl (he.room (by rw [hs, hl]; rfl))
  case readbyte =>
    rw [engineLine_readbyte hs]
    exact readbyteLine_completes hq fun hl => hr.one (hl ▸ hs)
  case readbytes =>
    have hop : s.eng.seq.op = some .readbytes := by rw [hs]; rfl
    have hi : l = .L5 → s.eng.work.i < s.eng.work.n.toNat := fun hl => hr.many (.inl (hl ▸ hs))
    rw [engineLine_readbytes hs]
    exact readbytesLine_completes hq hi fun hl => he.address_lt hop rfl (hi hl)
  case regwrrd =>
    have hop : s.eng.seq.op = some .regwrrd := by rw [hs]; rfl
    have hi : l = .L11 → s.eng.work.i < s.eng.work.n.toNat := fun hl => hr.many (.inr (hl ▸ hs))
    rw [engineLine_regwrrd hs]
    exact regwrrdLine_completes hq hi fun hl => he.address_lt hop rfl (hi hl)

/-- Where no poll shows a byte, as many steps as polls are scripted complete. -/
theorem Waiting.completes {k : Nat} (h : Waiting s) (hI : Inv s) (hr : RoomToCollect s) (hk : k ≤ s.env.polls.length)
    (hnone : ∀ p ∈ s.env.polls, p.rxbf = false) : ∃ t, core.run k s = .next t := by
  induction k generalizing s with
  | zero => exact ⟨s, rfl⟩
  | succ k ih =>
    obtain ⟨-, -, -, -, he⟩ := inv_iff.mp hI
    obtain ⟨u, hl⟩ := he.engineLine_completes h.loop hr
    obtain ⟨hu, -, hlen, hsub⟩ := h.next hk hl
    have hp := pollAnswer_mem hk
    have hstay := engineLine_stays h.loop (h.active _ hp) hl
    obtain ⟨t, ht⟩ := ih hu (hI.after_engineLine h.busy hl) (.of_not_collects (hstay.2 (hnone _ hp))) hlen
      fun p hp => hnone p (hsub p hp)
    exact ⟨t, by rw [h.atLine.run hl, ht]⟩

end

/-- Settles O54: each completed step leaves the command waiting, and with room and no byte shown each completes. -/
theorem commandWaitsWhileActive : Obligations.CommandWaitsWhileActive := by
  intro k s hu hb hloop hactive hk
  have hw : Waiting s := ⟨hu, hb, hloop, hactive⟩
  constructor
  · intro t hrun
    obtain ⟨ht, hres⟩ := hw.run hk hrun
    exact ⟨ht.busy, ht.loop, hres⟩
  · intro hI hnone hone hmany
    exact hw.completes hI ⟨hone, hmany⟩ hk hnone

end Sys2Proof.Machine
end

section
/-! SUPPORT. The buffer bindings (R83, R84) and each case of the VRF's three operations (R85 to R87): when it applies,
what it leaves, and what that says of the cursor (R93, R94). -/

namespace Sys2Proof.Machine

/-! ### The bindings -/

theorem bufferInRange_iff {p : Params} {ptr n : Half} :
    bufferInRange p ptr n = true ↔ ptr.toNat < 2 ^ p.addrW ∧ ptr.toNat + n.toNat ≤ 2 ^ p.addrW := by
  rw [bufferInRange, Bool.and_eq_true, decide_eq_true_eq, decide_eq_true_eq]

theorem not_bufferInRange_of_end {p : Params} {ptr n : Half} (h : 2 ^ p.addrW < ptr.toNat + n.toNat) :
    ¬ bufferInRange p ptr n = true := by
  rw [bufferInRange_iff]
  omega

theorem not_bufferInRange_of_ptr {p : Params} {ptr n : Half} (h : 2 ^ p.addrW ≤ ptr.toNat) :
    ¬ bufferInRange p ptr n = true := by
  rw [bufferInRange_iff]
  omega

theorem exec_setwbuf_of_outside {s : State} {ptr n : Half} (h : ¬ bufferInRange s.par ptr n = true) :
    exec (.setwbuf ptr n) s = .refused .bufferOutOfRange := by
  rw [exec, execSetwbuf, if_neg h]

theorem exec_setrbuf_of_outside {s : State} {ptr n : Half} (h : ¬ bufferInRange s.par ptr n = true) :
    exec (.setrbuf ptr n) s = .refused .bufferOutOfRange := by
  rw [exec, execSetrbuf, if_neg h]

/-- Settles O22: the range check passes on exactly such a buffer, and each of the two ways past memory fails it. -/
theorem setwbufBinds : Obligations.SetwbufBinds := fun _ _ _ =>
  ⟨fun hptr hend => exec_setwbuf_of_inRange (bufferInRange_iff.mpr ⟨hptr, hend⟩),
    fun h => exec_setwbuf_of_outside (not_bufferInRange_of_end h),
    fun h => exec_setwbuf_of_outside (not_bufferInRange_of_ptr h)⟩

/-- Settles O23: SETRBUF makes the check of SETWBUF. -/
theorem setrbufBinds : Obligations.SetrbufBinds := fun _ _ _ =>
  ⟨fun hptr hend => exec_setrbuf_of_inRange (bufferInRange_iff.mpr ⟨hptr, hend⟩),
    fun h => exec_setrbuf_of_outside (not_bufferInRange_of_end h),
    fun h => exec_setrbuf_of_outside (not_bufferInRange_of_ptr h)⟩

/-! ### VRF_STORE -/

theorem vrfStoreOp_of_unbound {s : State} (d : Byte) (hb : s.vrf.wbound = false) :
    vrfStoreOp d s = .error (.bufferUnbound .write) := by
  rw [vrfStoreOp, if_pos hb]

theorem vrfStoreOp_of_read {s : State} (d : Byte) (hb : s.vrf.wbound = true) (hd : s.vrf.dir = .read) :
    vrfStoreOp d s = .error .mixedDirection := by
  rw [vrfStoreOp, if_neg (by simp [hb]), if_pos hd]

/-- The word VRF_STORE faults where its operation does. -/
theorem exec_vrfStore_of_error {d : Byte} {s : State} {f : Fault} (h : vrfStoreOp d s = .error f) :
    exec (.vrfStore d) s = .fault f := by
  rw [exec, execVrfStore, h, ofExcept]

/-- Settles O25: the word is its operation, which has one lemma for each case. -/
theorem vrfStoreCases : Obligations.VrfStoreCases := by
  intro s d
  refine ⟨fun hb => exec_vrfStore_of_error (vrfStoreOp_of_unbound d hb),
    fun hb hd => exec_vrfStore_of_error (vrfStoreOp_of_read d hb hd),
    fun hb hd => ⟨fun hm ha => ?_, fun hm => ⟨?_, ?_⟩⟩⟩
  · exact exec_vrfStore_of_ok (vrfStoreOp_of_address d hb hd hm ha)
  · intro hc hw
    exact exec_vrfStore_of_ok (vrfStoreOp_of_room d hb hd (not_addressByte hm) hc (by omega))
  · intro hc
    exact exec_vrfStore_of_ok (vrfStoreOp_of_full d hb hd (not_addressByte hm) hc)

/-! ### VRF_REQUEST, as a function of the VRF and memory -/

/-- The VRF after a request (R86): the cursor moves on, or is parked past the buffer. -/
def Vrf.requested (v : Vrf) : Vrf :=
  { v with cursor := if v.cursor < v.rsize then v.cursor + 1 else v.rsize + 1, hadRead := true, dir := .read }

/-- What a request answers (R86): the byte at the cursor, or the sentinel past the buffer. -/
def Vrf.answer (v : Vrf) (m : Memory) : Byte :=
  if v.cursor < v.rsize then m.read (v.rbase.toNat + v.cursor) else 0x00#8

theorem vrfRequestOp_of_bound {s : State} (hb : s.vrf.rbound = true)
    (hr : s.vrf.rbase.toNat + s.vrf.rsize ≤ 2 ^ s.par.addrW) :
    vrfRequestOp s = .ok (s.vrf.answer s.mem, { s with vrf := s.vrf.requested }) := by
  rw [Vrf.answer, Vrf.requested]
  split
  · rename_i hc
    exact vrfRequestOp_of_lt hb hc (by omega)
  · rename_i hc
    exact vrfRequestOp_of_full hb (by omega)

theorem vrfRequestOp_eq_ok {s t : State} {v : Byte} (h : vrfRequestOp s = .ok (v, t)) :
    v = s.vrf.answer s.mem ∧ t = { s with vrf := s.vrf.requested } := by
  obtain ⟨-, ⟨hc, -, rfl, rfl⟩ | ⟨hc, rfl, rfl⟩⟩ := vrfRequestOp_cases h
  · simp [Vrf.answer, Vrf.requested, hc]
  · simp [Vrf.answer, Vrf.requested, Nat.not_lt.mpr hc]

/-- The word VRF_REQUEST completes in one way. -/
theorem exec_vrfRequest_eq_next {s t : State} (h : exec .vrfRequest s = .next t) :
    t = { s with vrf := s.vrf.requested,
                 hist := { s.hist with results := s.hist.results ++ [.vrfByte (s.vrf.answer s.mem)] } } := by
  obtain ⟨v, u, hu, rfl⟩ := execVrfRequest_cases h
  obtain ⟨rfl, rfl⟩ := vrfRequestOp_eq_ok hu
  rfl

theorem exec_vrfRequest_of_unbound {s : State} (hb : s.vrf.rbound = false) :
    exec .vrfRequest s = .fault (.bufferUnbound .read) := by
  simp only [exec, execVrfRequest, vrfRequestOp, if_pos hb]

/-- Settles O26: the word is its operation, which has one lemma for each case. -/
theorem vrfRequestCases : Obligations.VrfRequestCases := by
  intro s
  refine ⟨exec_vrfRequest_of_unbound, fun hb => ⟨fun hc hr => ?_, fun hc => ?_⟩⟩
  · exact exec_vrfRequest_of_ok (vrfRequestOp_of_lt hb hc (by omega))
  · exact exec_vrfRequest_of_ok (vrfRequestOp_of_full hb hc)

/-- A request reads its answer inside the buffer only (R92). -/
theorem Vrf.answer_congr {v : Vrf} {m m' : Memory}
    (h : ∀ a, v.rbase.toNat ≤ a → a < v.rbase.toNat + v.rsize → m.read a = m'.read a) : v.answer m = v.answer m' := by
  rw [Vrf.answer, Vrf.answer]
  split
  · exact h _ (by omega) (by omega)
  · rfl

/-- A stored byte goes inside the buffer only (R92). -/
theorem vrfStoreOp_memoryOutside {d : Byte} {s t : State} (hwf : s.mem.wf = true) (h : vrfStoreOp d s = .ok t) :
    SameMemoryOutside s t s.vrf.wbase.toNat s.vrf.wsize := by
  intro a ha
  obtain ⟨-, -, ⟨-, -, rfl⟩ | ⟨-, hc, -, rfl⟩ | ⟨-, -, rfl⟩⟩ := vrfStoreOp_cases h
  · rfl
  · exact Memory.read_write_other hwf (by omega) d
  · rfl

/-- Settles O31: a store's one address is inside its buffer, and so is a request's, whose result and next state depend
on memory through the answer alone. -/
theorem noAccessOutsideTheBuffers : Obligations.NoAccessOutsideTheBuffers := by
  refine ⟨fun s t d hwf h => vrfStoreOp_memoryOutside hwf (ofExcept_eq_next.mp h), fun s m t u hm ht hu => ?_⟩
  obtain rfl := exec_vrfRequest_eq_next ht
  obtain rfl := exec_vrfRequest_eq_next hu
  have hans : s.vrf.answer m = s.vrf.answer s.mem := Vrf.answer_congr hm
  exact ⟨by simp only [hans], rfl, fun _ => rfl, rfl⟩

/-- Settles O33: a data byte moves the cursor up by one or not at all; a request moves it up by one below the parked
value, and to the parked value otherwise. -/
theorem cursorRisesWithinATransaction : Obligations.CursorRisesWithinATransaction := by
  refine ⟨fun s t d hmode h => ?_, fun s t hc h => ?_, fun s t hc h => ?_⟩
  · obtain ⟨-, -, ⟨hm, ha, -⟩ | ⟨-, -, -, rfl⟩ | ⟨-, -, rfl⟩⟩ := vrfStoreOp_cases (ofExcept_eq_next.mp h)
    · exact absurd ⟨hm, ha⟩ (not_addressByte hmode)
    · exact Nat.le_succ _
    · exact le_rfl
  · obtain rfl := exec_vrfRequest_eq_next h
    simp only [Vrf.requested]
    split <;> omega
  · obtain rfl := exec_vrfRequest_eq_next h
    exact if_neg (by omega)

/-! ### VRF_STOP -/

/-- After a requested byte a stop takes the pre-load back; a cursor of 0 it leaves there (R87). -/
theorem Vrf.stopCursor_of_hadRead {v : Vrf} (h : v.hadRead = true) :
    v.stopCursor .addressPrefixed = v.cursor - 1 := by
  simp only [Vrf.stopCursor, h, true_and]
  split <;> omega

theorem Vrf.stopCursor_of_noRead {v : Vrf} (h : v.hadRead = false) : v.stopCursor .addressPrefixed = v.cursor := by
  simp [Vrf.stopCursor, h]

/-- Settles O27: the cursor is `stopCursor`'s, in each mode. -/
theorem vrfStopCases : Obligations.VrfStopCases := by
  intro s
  refine ⟨s.vrf.stopCursor s.par.mode, rfl, fun hm => by rw [hm]; rfl, fun hm => ?_⟩
  rw [hm]
  refine ⟨fun hr hc => ?_, fun hno => ?_⟩
  · rw [Vrf.stopCursor_of_hadRead hr]
    omega
  · cases hr : s.vrf.hadRead with
    | false => exact Vrf.stopCursor_of_noRead hr
    | true =>
      have hc : s.vrf.cursor = 0 := hno.resolve_left (by simp [hr])
      rw [Vrf.stopCursor_of_hadRead hr, hc]

/-- Settles O32: the invariant has the cursor at 1 or more after a request, so what the stop takes back is there. -/
theorem stopGuardIsRedundant : Obligations.StopGuardIsRedundant := by
  intro s hI
  refine ⟨vrfStopOp s, rfl, hI.readCursor, fun hm => ?_⟩
  simp only [vrfStopOp, Vrf.stopped, hm]
  cases hr : s.vrf.hadRead with
  | false => simp [Vrf.stopCursor_of_noRead hr]
  | true =>
    have hc := hI.readCursor hr
    simp only [Vrf.stopCursor_of_hadRead hr, if_true]
    omega

end Sys2Proof.Machine
end

section
/-! SUPPORT. Runs of requests (R90, R91), direct and through events: what the VRF, memory and the records are after any
number of them. -/

namespace Sys2Proof.Machine

/-! ### Runs of operations -/

theorem execAll_cons {i : Instr} {is : List Instr} {s t : State} (h : exec i s = .next t) :
    execAll (i :: is) s = execAll is t := by
  simp only [execAll, h]

theorem execAll_append {is js : List Instr} {s t : State} (h : execAll is s = .next t) :
    execAll (is ++ js) s = execAll js t := by
  induction is generalizing s with
  | nil =>
    cases h
    rfl
  | cons i is ih =>
    rw [execAll] at h
    split at h
    · rename_i u hu
      rw [List.cons_append, execAll_cons hu, ih h]
    · cases h
    · cases h

/-- Repeating an operation: what holds after none of it, and after one more wherever it holds, holds after all. -/
theorem execAll_replicate {i : Instr} {s : State} {P : Nat → State → Prop} (h0 : P 0 s)
    (hstep : ∀ k t, P k t → ∃ u, exec i t = .next u ∧ P (k + 1) u) (K : Nat) :
    ∃ t, execAll (List.replicate K i) s = .next t ∧ P K t := by
  induction K with
  | zero => exact ⟨s, rfl, h0⟩
  | succ K ih =>
    obtain ⟨t, ht, hP⟩ := ih
    obtain ⟨u, hu, hP'⟩ := hstep K t hP
    refine ⟨u, ?_, hP'⟩
    rw [List.replicate_succ', execAll_append ht, execAll_cons hu, execAll]

/-! ### Requests -/

section
variable (v : Vrf)

theorem Vrf.iterate_requested_binding (k : Nat) :
    (Vrf.requested^[k] v).rbound = v.rbound ∧ (Vrf.requested^[k] v).rbase = v.rbase ∧
      (Vrf.requested^[k] v).rsize = v.rsize := by
  induction k with
  | zero => exact ⟨rfl, rfl, rfl⟩
  | succ k ih =>
    rw [Function.iterate_succ_apply']
    exact ih

/-- One request or more move the cursor up by as many, or park it (R90). -/
theorem Vrf.iterate_requested_cursor (k : Nat) :
    (Vrf.requested^[k + 1] v).cursor =
      if v.cursor + (k + 1) ≤ v.rsize then v.cursor + (k + 1) else v.rsize + 1 := by
  induction k with
  | zero => rfl
  | succ k ih =>
    obtain ⟨-, -, hsize⟩ := v.iterate_requested_binding (k + 1)
    rw [Function.iterate_succ_apply', Vrf.requested]
    simp only [ih, hsize]
    split_ifs <;> omega

/-- The answer to the request after `k` others (R90). -/
theorem Vrf.answer_iterate_requested (m : Memory) (k : Nat) :
    (Vrf.requested^[k] v).answer m =
      if v.cursor + k < v.rsize then m.read (v.rbase.toNat + (v.cursor + k)) else 0x00#8 := by
  cases k with
  | zero => rfl
  | succ k =>
    obtain ⟨-, hbase, hsize⟩ := v.iterate_requested_binding (k + 1)
    rw [Vrf.answer, hbase, hsize, v.iterate_requested_cursor]
    by_cases hc : v.cursor + (k + 1) ≤ v.rsize
    · rw [if_pos hc]
    · rw [if_neg hc, if_neg (by omega), if_neg (by omega)]

end

/-- The answers to the first `k` requests from `s` on. -/
def State.answers (s : State) (k : Nat) : List Byte :=
  (List.range k).map fun i => (Vrf.requested^[i] s.vrf).answer s.mem

theorem State.answers_succ (s : State) (k : Nat) :
    s.answers (k + 1) = s.answers k ++ [(Vrf.requested^[k] s.vrf).answer s.mem] := by
  rw [State.answers, List.range_succ, List.map_append]
  rfl

theorem State.answers_eq (s : State) (k : Nat) :
    s.answers k = (List.range k).map fun i =>
      if s.vrf.cursor + i < s.vrf.rsize then s.mem.read (s.vrf.rbase.toNat + (s.vrf.cursor + i)) else 0x00#8 := by
  simp only [State.answers, Vrf.answer_iterate_requested]

/-- `t` is `s` after `k` requests, up to the port and the records. -/
structure AfterRequests (s : State) (k : Nat) (t : State) : Prop where
  par : t.par = s.par
  slots : t.slots = s.slots
  mem : t.mem = s.mem
  vrf : t.vrf = Vrf.requested^[k] s.vrf

section
variable {s t u : State} {k : Nat}

theorem AfterRequests.zero (s : State) : AfterRequests s 0 s := ⟨rfl, rfl, rfl, rfl⟩

theorem AfterRequests.succ (h : AfterRequests s k t) (hpar : u.par = t.par) (hslots : u.slots = t.slots)
    (hmem : u.mem = t.mem) (hvrf : u.vrf = t.vrf.requested) : AfterRequests s (k + 1) u :=
  ⟨hpar.trans h.par, hslots.trans h.slots, hmem.trans h.mem, by rw [hvrf, h.vrf, Function.iterate_succ_apply']⟩

/-- The next request completes, with the next of the answers. -/
theorem AfterRequests.request (h : AfterRequests s k t) (hb : s.vrf.rbound = true)
    (hr : s.vrf.rbase.toNat + s.vrf.rsize ≤ 2 ^ s.par.addrW) :
    vrfRequestOp t = .ok ((Vrf.requested^[k] s.vrf).answer s.mem, { t with vrf := t.vrf.requested }) := by
  obtain ⟨hbound, hbase, hsize⟩ := s.vrf.iterate_requested_binding k
  rw [← h.vrf] at hbound hbase hsize
  rw [vrfRequestOp_of_bound (hbound.trans hb) (by rwa [hbase, hsize, h.par]), h.vrf, h.mem]

end

/-- Any number of the word VRF_REQUEST: the answers are returned. -/
theorem execAll_vrfRequests {s : State} (hb : s.vrf.rbound = true)
    (hr : s.vrf.rbase.toNat + s.vrf.rsize ≤ 2 ^ s.par.addrW) (K : Nat) :
    ∃ t, execAll (List.replicate K .vrfRequest) s = .next t ∧ AfterRequests s K t ∧
      t.hist.results = s.hist.results ++ (s.answers K).map .vrfByte := by
  refine execAll_replicate (P := fun k t => AfterRequests s k t ∧
    t.hist.results = s.hist.results ++ (s.answers k).map .vrfByte)
    ⟨.zero s, (List.append_nil _).symm⟩ (fun k t ⟨hreq, hres⟩ => ?_) K
  refine ⟨_, exec_vrfRequest_of_ok (hreq.request hb hr), hreq.succ rfl rfl rfl rfl, ?_⟩
  simp only [hres, State.answers_succ, List.map_append, List.map_cons, List.map_nil, List.append_assoc]

/-- Any number of byte-requested events with the VRF in the slot: the answers are loaded into TXB. -/
theorem execAll_evRequesteds {s : State} (hrole : s.par.role = .target) (hslot : s.slots.read = .vrf)
    (hb : s.vrf.rbound = true) (hr : s.vrf.rbase.toNat + s.vrf.rsize ≤ 2 ^ s.par.addrW) (K : Nat) :
    ∃ t, execAll (List.replicate K .evRequested) s = .next t ∧ AfterRequests s K t ∧
      t.hist.txLoads = s.hist.txLoads ++ s.answers K ∧ t.hist.results = s.hist.results := by
  refine execAll_replicate (P := fun k t => AfterRequests s k t ∧ t.hist.txLoads = s.hist.txLoads ++ s.answers k ∧
    t.hist.results = s.hist.results)
    ⟨.zero s, (List.append_nil _).symm, rfl⟩ (fun k t ⟨hreq, hload, hres⟩ => ?_) K
  refine ⟨_, exec_evRequested_of_vrf (hreq.par ▸ hrole) (hreq.slots ▸ hslot) (hreq.request hb hr),
    hreq.succ rfl rfl rfl rfl, ?_, hres⟩
  simp only [State.delivered, State.answer, State.portWriteTxb_hist, hload, State.answers_succ, List.append_assoc]

/-- Settles O29: the answers and the cursor after K requests, in closed form. -/
theorem readLaw : Obligations.ReadLaw := by
  intro s K hK hb hr
  obtain ⟨t, ht, hreq, hres⟩ := execAll_vrfRequests hb hr K
  refine ⟨t, ht, ?_, ?_, hreq.mem⟩
  · rw [hres, State.answers_eq, List.map_map]
    rfl
  · obtain ⟨k, rfl⟩ := Nat.exists_eq_add_of_le' hK
    rw [hreq.vrf, Vrf.iterate_requested_cursor]

/-- Settles O30: the L + 1 requests leave the cursor one past `min (P + L) rsize`, and the stop takes it back. -/
theorem stopCorrectionLaw : Obligations.StopCorrectionLaw := by
  intro s L _ hrole hmode hread hstop hb hr
  obtain ⟨t, ht, hreq, hload, hres⟩ := execAll_evRequesteds hrole hread hb hr (L + 1)
  have hhad : t.vrf.hadRead = true := by rw [hreq.vrf, Function.iterate_succ_apply', Vrf.requested]
  have hrun := exec_evStopped_of_vrf (s := t) (hreq.par ▸ hrole) (hreq.slots ▸ hstop)
  refine ⟨_, (execAll_append ht).trans (execAll_cons hrun), ?_, ?_, hres⟩
  · calc t.vrf.stopCursor t.par.mode
        = t.vrf.cursor - 1 := by rw [hreq.par, hmode, Vrf.stopCursor_of_hadRead hhad]
      _ = min (s.vrf.cursor + L) s.vrf.rsize := by
        rw [hreq.vrf, Vrf.iterate_requested_cursor]
        split <;> omega
  · exact hload.trans (congrArg _ (s.answers_eq _))

end Sys2Proof.Machine
end

section
/-! SUPPORT. A write transaction (R89): what the VRF and memory are after its data bytes, and after its stop. -/

namespace Sys2Proof.Machine

/-- The data bytes that fit between the cursor and the capacity (R89). -/
def Vrf.fitting (v : Vrf) (data : List Byte) : List Byte := data.take (v.wsize - v.cursor)

theorem Vrf.length_fitting (v : Vrf) (data : List Byte) :
    (v.fitting data).length = min (v.wsize - v.cursor) data.length :=
  List.length_take

/-- With room the first data byte fits, and then what fits from the next cursor on. -/
theorem Vrf.fitting_cons {v : Vrf} (h : v.cursor < v.wsize) (d : Byte) (data : List Byte) :
    v.fitting (d :: data) = d :: Vrf.fitting { v with cursor := v.cursor + 1 } data := by
  rw [Vrf.fitting, Vrf.fitting, Nat.sub_add_eq, ← List.take_succ_cons, Nat.sub_add_cancel (Nat.sub_pos_of_lt h)]

/-- The state after written data bytes (R89): those that fit are stored from the cursor on, the rest dropped. -/
def State.afterData (s : State) (data : List Byte) : State :=
  { s with
    vrf := { s.vrf with cursor := s.vrf.cursor + (s.vrf.fitting data).length, dir := .write }
    mem := s.mem.writeAll (s.vrf.wbase.toNat + s.vrf.cursor) (s.vrf.fitting data) }

theorem State.afterData_nil {s : State} (h : s.vrf.dir = .write) : s.afterData [] = s := by
  rw [State.afterData, Vrf.fitting, List.take_nil, ← h]
  rfl

theorem State.afterData_cons_of_full {s : State} (h : s.vrf.wsize ≤ s.vrf.cursor) (d : Byte) (data : List Byte) :
    s.afterData (d :: data) = State.afterData { s with vrf := { s.vrf with dir := .write } } data := by
  simp only [State.afterData, Vrf.fitting, Nat.sub_eq_zero_of_le h, List.take_zero]

theorem State.afterData_cons_of_room {s : State} (h : s.vrf.cursor < s.vrf.wsize) (d : Byte) (data : List Byte) :
    s.afterData (d :: data) =
      State.afterData { s with
        vrf := { s.vrf with cursor := s.vrf.cursor + 1, dir := .write }
        mem := s.mem.write (s.vrf.wbase.toNat + s.vrf.cursor) d } data := by
  rw [State.afterData, Vrf.fitting_cons h, List.length_cons, Memory.writeAll]
  simp only [State.afterData, Vrf.fitting, Nat.add_assoc, Nat.add_comm 1]

/-- The data bytes of a write transaction, each by its case of R85. -/
theorem execAll_vrfStores {s : State} (data : List Byte) (hd : s.vrf.dir = .write)
    (hdata : s.vrf.isAddressByte = false) (hb : s.vrf.wbound = true)
    (hw : s.vrf.wbase.toNat + s.vrf.wsize ≤ 2 ^ s.par.addrW) :
    execAll (data.map .vrfStore) s = .next (s.afterData data) := by
  induction data generalizing s with
  | nil =>
    rw [State.afterData_nil hd]
    rfl
  | cons d data ih =>
    have hnr : s.vrf.dir ≠ .read := by simp [hd]
    have hna := not_addressByte (s := s) (.inr hdata)
    rw [List.map_cons]
    by_cases hc : s.vrf.cursor < s.vrf.wsize
    · have hstore := vrfStoreOp_of_room d hb hnr hna hc (by omega)
      rw [execAll_cons (exec_vrfStore_of_ok hstore), State.afterData_cons_of_room hc]
      exact ih rfl hdata hb hw
    · have hfull := Nat.not_lt.mp hc
      have hdrop := vrfStoreOp_of_full d hb hnr hna hfull
      rw [execAll_cons (exec_vrfStore_of_ok hdrop), State.afterData_cons_of_full hfull]
      exact ih rfl hdata hb hw

/-- The VRF after the pointer of a write transaction (R85). -/
def State.pointed (s : State) (A : Byte) : State :=
  { s with vrf := { s.vrf with cursor := A.toNat, isAddressByte := false, dir := .write } }

/-- A whole write transaction: the pointer, the data, the stop. -/
theorem execAll_writeTransaction {s : State} (A : Byte) (data : List Byte) (hm : s.par.mode = .addressPrefixed)
    (ha : s.vrf.isAddressByte = true) (hd : s.vrf.dir = .none) (hb : s.vrf.wbound = true)
    (hw : s.vrf.wbase.toNat + s.vrf.wsize ≤ 2 ^ s.par.addrW) :
    execAll (.vrfStore A :: (data.map .vrfStore ++ [.vrfStop])) s =
      .next (vrfStopOp ((s.pointed A).afterData data)) := by
  have hptr := exec_vrfStore_of_ok (vrfStoreOp_of_address A hb (by simp [hd]) hm ha)
  have hdata := execAll_vrfStores (s := s.pointed A) data rfl rfl hb hw
  exact (execAll_cons hptr).trans (execAll_append hdata)

/-- Settles O28: what is read back of the bytes that fit, and of all others, is `writeAll`'s; with no byte requested the
stop leaves the cursor. -/
theorem writeTransactionLaw : Obligations.WriteTransactionLaw := by
  intro s A data hm ha hd hr hb hw hwf
  have hlen : ((s.pointed A).vrf.fitting data).length = min (s.vrf.wsize - A.toNat) data.length :=
    Vrf.length_fitting ..
  refine ⟨_, execAll_writeTransaction A data hm ha hd hb hw, fun i d hi hlt => ?_, fun a hother => ?_, ?_, rfl, rfl,
    rfl⟩
  · have hfit : ((s.pointed A).vrf.fitting data)[i]? = some d :=
      (List.getElem?_take_of_lt (show i < s.vrf.wsize - A.toNat by omega)).trans hi
    exact Memory.read_writeAll hwf _ hfit
  · have hout : a < s.vrf.wbase.toNat + A.toNat ∨
        s.vrf.wbase.toNat + A.toNat + ((s.pointed A).vrf.fitting data).length ≤ a := by
      have := hother (a - (s.vrf.wbase.toNat + A.toNat))
      omega
    exact Memory.read_writeAll_outside hwf hout
  · calc ((s.pointed A).afterData data).vrf.stopCursor s.par.mode
        = A.toNat + ((s.pointed A).vrf.fitting data).length := by rw [hm]; exact Vrf.stopCursor_of_noRead hr
      _ = if A.toNat < s.vrf.wsize then min (A.toNat + data.length) s.vrf.wsize else A.toNat := by
        rw [hlen]
        split <;> omega

end Sys2Proof.Machine
end

section
/-! SUPPORT. The bound of the cursor (R95): each operation moves it within the limit of the capacities bound before. -/

namespace Sys2Proof.Machine

/-- The bound of R95 for given capacities. -/
def cursorLimit (W R : Nat) : Nat := max 255 (max W (R + 1))

section
variable {W R : Nat} {s t : State}

theorem cursorBound_iff :
    CursorBound W R s ↔ s.vrf.cursor ≤ cursorLimit W R ∧ s.vrf.writeCapacity ≤ W ∧ s.vrf.readCapacity ≤ R :=
  Iff.rfl

/-- A cursor within the old limit is within the limit that the capacities bound now give. -/
theorem CursorBound.of_cursor_le (h : t.vrf.cursor ≤ cursorLimit W R) :
    CursorBound (max W t.vrf.writeCapacity) (max R t.vrf.readCapacity) t := by
  have hgrow : cursorLimit W R ≤ cursorLimit (max W t.vrf.writeCapacity) (max R t.vrf.readCapacity) := by
    simp only [cursorLimit]
    omega
  exact ⟨h.trans hgrow, le_max_right .., le_max_right ..⟩

theorem CursorBound.after_vrfStoreOp {d : Byte} (h : CursorBound W R s) (hop : vrfStoreOp d s = .ok t) :
    t.vrf.cursor ≤ cursorLimit W R := by
  obtain ⟨hc, hw, -⟩ := cursorBound_iff.mp h
  obtain ⟨hb, -, ⟨-, -, rfl⟩ | ⟨-, hlt, -, rfl⟩ | ⟨-, -, rfl⟩⟩ := vrfStoreOp_cases hop
  · have := d.isLt
    simp only [cursorLimit]
    omega
  · rw [Vrf.writeCapacity_of_bound hb] at hw
    simp only [cursorLimit]
    omega
  · exact hc

theorem CursorBound.after_vrfRequestOp {b : Byte} (h : CursorBound W R s) (hop : vrfRequestOp s = .ok (b, t)) :
    t.vrf.cursor ≤ cursorLimit W R := by
  obtain ⟨-, -, hr⟩ := cursorBound_iff.mp h
  obtain ⟨hb, ⟨hlt, -, -, rfl⟩ | ⟨-, -, rfl⟩⟩ := vrfRequestOp_cases hop
  all_goals
    rw [Vrf.readCapacity_of_bound hb] at hr
    simp only [cursorLimit]
    omega

theorem CursorBound.after_vrfStopOp (h : CursorBound W R s) : (vrfStopOp s).vrf.cursor ≤ cursorLimit W R :=
  (Vrf.stopCursor_le _ _).trans h.1

/-- Configuration words and commands leave the cursor (R32); the VRF's operations keep it within the limit, run
directly or by an event. -/
theorem CursorBound.after_exec {i : Instr} (h : CursorBound W R s) (hi : exec i s = .next t) :
    t.vrf.cursor ≤ cursorLimit W R := by
  have hkeep : i.cls ≤ 1 → t.vrf.cursor ≤ cursorLimit W R := fun hcls =>
    ((onlyNamedOperationsWrite i s t hi).1 hcls).1.trans_le h.1
  cases i
  case evWritten =>
    obtain ⟨-, ⟨-, u, hu, rfl⟩ | ⟨_, -, rfl⟩⟩ := execEvWritten_cases hi
    · exact (h.after_vrfStoreOp hu :)
    · exact h.1
  case evRequested =>
    obtain ⟨-, ⟨-, _, u, hu, rfl⟩ | ⟨_, -, rfl⟩⟩ := execEvRequested_cases hi
    · exact (h.after_vrfRequestOp hu :)
    · exact h.1
  case evStopped =>
    obtain ⟨-, ⟨-, rfl⟩ | ⟨_, -, rfl⟩⟩ := execEvStopped_cases hi
    · exact h.after_vrfStopOp
    · exact h.1
  case vrfStore => exact h.after_vrfStoreOp (ofExcept_eq_next.mp hi)
  case vrfRequest =>
    obtain ⟨_, u, hu, rfl⟩ := execVrfRequest_cases hi
    exact (h.after_vrfRequestOp hu :)
  case vrfStop =>
    cases hi
    exact h.after_vrfStopOp
  all_goals exact hkeep (by simp [Instr.cls])

theorem CursorBound.after_effect (h : CursorBound W R s) (he : Effect s t) : t.vrf.cursor ≤ cursorLimit W R := by
  cases he with
  | word i hi => exact h.after_exec hi
  | line hl =>
    obtain ⟨-, hvrf, -, -⟩ := (engineLine_keeps hl).1
    exact hvrf ▸ h.1
  | reset ht => rw [ht]; exact Nat.zero_le _
  | store a v ha ht => rw [ht]; exact h.1
  | drive regs ht => rw [ht]; exact h.1
  | outside e r ht => rw [ht]; exact h.1

theorem CursorBound.after_step (h : CursorBound W R s) (hs : step s = .next t) : t.vrf.cursor ≤ cursorLimit W R := by
  obtain rfl | ⟨e, he⟩ := step_effect hs
  · exact h.1
  · exact CursorBound.after_effect (s := { s with env := e }) h he

end

theorem cursorBound_resetWith (p : Params) : CursorBound 0 0 (State.resetWith p) :=
  ⟨Nat.zero_le _, le_rfl, le_rfl⟩

/-- Settles O34: a step leaves the cursor within the limit of the capacities before it, which those after it only
raise. -/
theorem cursorIsBounded : Obligations.CursorIsBounded :=
  ⟨cursorBound_resetWith, fun _ _ _ _ h hs => .of_cursor_le (h.after_step hs)⟩

end Sys2Proof.Machine
end

section
/-! SUPPORT. What the configuration, event and direct VRF words do by the block's role (R105), and each event by what
its slot holds (R99 to R102). -/

namespace Sys2Proof.Machine

/-! ### The role -/

/-- An event word is refused out of the target role, whatever its slot holds (R105). -/
theorem exec_event_of_role {i : Instr} {s : State} (hi : i.cls = 2) (hr : s.par.role ≠ .target) :
    exec i s = .refused .roleMismatch := by
  cases i
  case evWritten | evRequested | evStopped => exact if_pos hr
  all_goals cases hi

/-- A controller command is refused out of the controller role, before any other check of its entry (R62, R105). -/
theorem exec_command_of_role {i : Instr} {s : State} (hi : i.cls = 1) (hr : s.par.role ≠ .controller) :
    exec i s = .refused .roleMismatch := by
  cases i
  case sendbyte | sendbytes | readbyte | readbytes | regwrrd => exact if_pos hr
  all_goals cases hi

/-- A configuration word or a direct VRF word is never refused for the role: the bindings refuse a buffer out of range
only, and the others refuse nothing (R83, R84, R105). -/
theorem exec_ne_roleMismatch {i : Instr} {s : State} (hi : i.cls = 0 ∨ i.cls = 3) :
    exec i s ≠ .refused .roleMismatch := by
  cases i
  case setwbuf | setrbuf =>
    simp only [exec, execSetwbuf, execSetrbuf]
    split <;> nofun
  case regw | regr | regs | vrfStop => nofun
  case vrfStore => exact ofExcept_ne_refused _ _
  case vrfRequest =>
    simp only [exec, execVrfRequest]
    split <;> nofun
  all_goals simp [Instr.cls] at hi

/-- The block in another role, with everything else the same (R5). -/
def State.withRole (s : State) (r : Role) : State := { s with par := { s.par with role := r } }

theorem vrfStoreOp_withRole {d : Byte} {s t : State} (h : vrfStoreOp d s = .ok t) (r : Role) :
    vrfStoreOp d (s.withRole r) = .ok (t.withRole r) := by
  obtain ⟨hb, hd, ⟨hm, ha, rfl⟩ | ⟨hdata, hc, ha, rfl⟩ | ⟨hdata, hc, rfl⟩⟩ := vrfStoreOp_cases h
  · exact vrfStoreOp_of_address d hb hd hm ha
  · exact vrfStoreOp_of_room d hb hd hdata hc ha
  · exact vrfStoreOp_of_full d hb hd hdata hc

theorem vrfRequestOp_withRole {v : Byte} {s t : State} (h : vrfRequestOp s = .ok (v, t)) (r : Role) :
    vrfRequestOp (s.withRole r) = .ok (v, t.withRole r) := by
  obtain ⟨hb, ⟨hc, ha, rfl, rfl⟩ | ⟨hc, rfl, rfl⟩⟩ := vrfRequestOp_cases h
  · exact vrfRequestOp_of_lt hb hc ha
  · exact vrfRequestOp_of_full hb hc

/-- What a configuration word or a direct VRF word does, it does in either role (R105). -/
theorem exec_withRole {i : Instr} {s t : State} (hi : i.cls = 0 ∨ i.cls = 3) (h : exec i s = .next t) (r : Role) :
    exec i (s.withRole r) = .next (t.withRole r) := by
  cases i
  case setwbuf =>
    obtain ⟨hrange, rfl⟩ := execSetwbuf_cases h
    exact exec_setwbuf_of_inRange hrange
  case setrbuf =>
    obtain ⟨hrange, rfl⟩ := execSetrbuf_cases h
    exact exec_setrbuf_of_inRange hrange
  case regw | regr | regs | vrfStop =>
    cases h
    rfl
  case vrfStore => exact exec_vrfStore_of_ok (vrfStoreOp_withRole (ofExcept_eq_next.mp h) r)
  case vrfRequest =>
    obtain ⟨v, u, hu, rfl⟩ := execVrfRequest_cases h
    exact exec_vrfRequest_of_ok (vrfRequestOp_withRole hu r)
  all_goals simp [Instr.cls] at hi

/-- Settles O42: events and commands check the role first, and the words of the other two classes do not look at it. -/
theorem roleGating : Obligations.RoleGating :=
  ⟨fun _ _ => exec_event_of_role, fun _ _ => exec_command_of_role, fun _ _ => exec_ne_roleMismatch,
    fun _ _ _ r hi h => exec_withRole hi h r⟩

/-! ### The registrations -/

/-- Settles O37: the slot takes the handler that the word selects. -/
theorem regwRegisters : Obligations.RegwRegisters := fun _ _ => ⟨rfl, rfl⟩

/-- Settles O38: each slot takes the handler that its word selects. -/
theorem regrAndRegsRegister : Obligations.RegrAndRegsRegister := fun _ _ => ⟨rfl, rfl, rfl, rfl⟩

/-! ### EV_WRITTEN -/

theorem exec_evWritten_of_empty {s : State} (d : Byte) (hr : s.par.role = .target) (hs : s.slots.write = .empty) :
    exec (.evWritten d) s = .fault (.noHandler .written) := by
  simp [exec, execEvWritten, hr, hs]

/-- With the VRF in its slot, EV_WRITTEN faults where VRF_STORE does (R99). -/
theorem exec_evWritten_of_error {d : Byte} {s : State} {f : Fault} (hr : s.par.role = .target)
    (hs : s.slots.write = .vrf) (h : vrfStoreOp d s = .error f) : exec (.evWritten d) s = .fault f := by
  simp [exec, execEvWritten, hr, hs, h]

/-- VRF_STORE completes on a bound buffer inside memory, outside a read (R85): none of its faults applies. -/
theorem vrfStoreOp_completes {s : State} (d : Byte) (hb : s.vrf.wbound = true) (hd : s.vrf.dir ≠ .read)
    (hw : s.vrf.wbase.toNat + s.vrf.wsize ≤ 2 ^ s.par.addrW) : ∃ t, vrfStoreOp d s = .ok t := by
  cases h : vrfStoreOp d s with
  | ok t => exact ⟨t, rfl⟩
  | error f =>
    obtain ⟨hunbound, -⟩ | ⟨-, hread, -⟩ | ⟨-, hc, ha, -⟩ := vrfStoreOp_error h
    · simp [hb] at hunbound
    · exact absurd hread hd
    · omega

/-- Settles O39: the role, then the slot; with the VRF there, the event is the operation that VRF_STORE runs. -/
theorem evWrittenDispatches : Obligations.EvWrittenDispatches := by
  intro s d
  refine ⟨fun hr => exec_event_of_role rfl (by simp [hr]), fun hr => ⟨exec_evWritten_of_empty d hr, fun hs => ⟨?_, ?_⟩,
    fun _ => exec_evWritten_of_custom d hr⟩⟩
  · intro hb hd hw
    obtain ⟨t, ht⟩ := vrfStoreOp_completes d hb hd hw
    exact ⟨t, exec_vrfStore_of_ok ht, exec_evWritten_of_vrf hr hs ht⟩
  · intro f hf
    exact exec_evWritten_of_error hr hs (ofExcept_eq_fault.mp hf)

/-! ### EV_REQUESTED -/

theorem exec_evRequested_of_empty {s : State} (hr : s.par.role = .target) (hs : s.slots.read = .empty) :
    exec .evRequested s = .fault (.noHandler .requested) := by
  simp [exec, execEvRequested, hr, hs]

/-- With the VRF in its slot, EV_REQUESTED faults where VRF_REQUEST does (R100). -/
theorem exec_evRequested_of_error {s : State} {f : Fault} (hr : s.par.role = .target) (hs : s.slots.read = .vrf)
    (h : vrfRequestOp s = .error f) : exec .evRequested s = .fault f := by
  simp [exec, execEvRequested, hr, hs, h]

theorem vrfRequestOp_of_unbound {s : State} (hb : s.vrf.rbound = false) :
    vrfRequestOp s = .error (.bufferUnbound .read) := by
  rw [vrfRequestOp, if_pos hb]

/-- Settles O40: the role, then the slot; the VRF's answer is `Vrf.answer`'s, a custom handler's the drawn byte, and
either is loaded by `State.answer`. -/
theorem evRequestedAnswers : Obligations.EvRequestedAnswers := by
  intro s
  refine ⟨fun hr => exec_event_of_role rfl (by simp [hr]), fun hr => ⟨exec_evRequested_of_empty hr,
    fun hs hb => exec_evRequested_of_error hr hs (vrfRequestOp_of_unbound hb), fun hs hb hroom => ?_, fun _ hs => ?_⟩⟩
  · exact ⟨_, s.vrf.answer s.mem, exec_evRequested_of_vrf hr hs (vrfRequestOp_of_bound hb hroom),
      rfl, rfl, rfl, rfl, fun _ => rfl, rfl, rfl, rfl⟩
  · exact ⟨_, s.drawAnswer, exec_evRequested_of_custom hr hs, rfl, rfl, rfl, rfl, rfl, fun _ => rfl, rfl⟩

/-! ### EV_STOPPED -/

theorem exec_evStopped_of_empty {s : State} (hr : s.par.role = .target) (hs : s.slots.stop = .empty) :
    exec .evStopped s = .fault (.noHandler .stopped) := by
  simp [exec, execEvStopped, hr, hs]

/-- Settles O41: the role, then the slot; after either handler the stop flag is cleared. -/
theorem evStoppedDispatches : Obligations.EvStoppedDispatches := by
  intro s
  refine ⟨fun hr => exec_event_of_role rfl (by simp [hr]), fun hr => ⟨exec_evStopped_of_empty hr, fun hs => ?_,
    fun _ hs => ?_⟩⟩
  · exact ⟨_, vrfStopOp s, rfl, exec_evStopped_of_vrf hr hs, rfl, rfl, fun _ => rfl, rfl, rfl⟩
  · exact ⟨_, exec_evStopped_of_custom hr hs, rfl, rfl, fun _ => rfl, rfl, rfl⟩

end Sys2Proof.Machine
end

section
/-! SUPPORT. Steps that stop: what is recorded, how long it stays, and what a stop leaves alone (R111 to R113); and the
instances that share one memory (R122). -/

namespace Sys2Proof.Machine

/-! ### A step that stops -/

/-- What `advance` leaves is read off what `step` answers. -/
theorem advance_eq_settled {s t : State} {m : Move} (h : nextMove s = some (m, t)) :
    advance s = settled t (step s) := by
  rw [advance_of_move h, step_of_move h]

theorem settled_fault {t : State} (ho : t.outcome = .none) (f : Fault) :
    settled t (.fault f) = { t with outcome := .fault f } :=
  State.record_of_none ho _

theorem settled_refused {t : State} (ho : t.outcome = .none) (r : Refusal) :
    settled t (.refused r) = { t with outcome := .refused r } :=
  State.record_of_none ho _

/-- With nothing recorded, a step that stops is an agent's move, made in a state with nothing recorded either. -/
theorem exists_move_of_stop {s : State} (ho : s.outcome = .none) (hs : ∀ t, step s ≠ .next t) :
    ∃ m t, nextMove s = some (m, t) ∧ t.outcome = .none := by
  cases hm : nextMove s with
  | none => exact absurd (by rw [step_of_rest hm, atRest, ho]) (hs s)
  | some move =>
    obtain ⟨m, t⟩ := move
    obtain ⟨e, rfl⟩ := nextMove_env hm
    exact ⟨m, _, rfl, ho⟩

/-- A move uses up nothing but pending inputs, resets and turns. -/
theorem nextMove_uses_inputs {s t : State} {m : Move} (h : nextMove s = some (m, t)) :
    t = { s with env := { s.env with
      fg := t.env.fg, port := t.env.port, other := t.env.other, resets := t.env.resets, turns := t.env.turns } } := by
  obtain ⟨_, _, -, -, -, -, rfl⟩ | ⟨_, _, -, -, -, rfl⟩ | ⟨_, _, -, -, -, -, rfl⟩ | ⟨-, -, -, rfl⟩ | ⟨-, -, rfl⟩ :=
    nextMove_cases h
  all_goals rfl

/-- Settles O12: the step that stops is an agent's move, and the stop is recorded in the state the move starts from. -/
theorem stoppedStepChangesOnlyOutcome : Obligations.StoppedStepChangesOnlyOutcome := by
  intro s ho
  refine ⟨fun f hf => ?_, fun r hr => ?_, fun _ _ => nextMove_uses_inputs⟩
  · obtain ⟨m, t, hm, ht⟩ := exists_move_of_stop ho (by simp [hf])
    exact ⟨m, t, hm, by rw [advance_eq_settled hm, hf, settled_fault ht]⟩
  · obtain ⟨m, t, hm, ht⟩ := exists_move_of_stop ho (by simp [hr])
    exact ⟨m, t, hm, by rw [advance_eq_settled hm, hr, settled_refused ht]⟩

/-! ### After a stop -/

/-- With a record the only move left is a pending device reset (R113). -/
theorem nextMove_of_stopped {s t : State} {m : Move} (ho : s.outcome ≠ .none) (h : nextMove s = some (m, t)) :
    0 < s.env.resets ∧ m = .reset := by
  obtain ⟨_, _, hrun, -⟩ | ⟨_, _, hrun, -⟩ | ⟨_, _, hrun, -⟩ | ⟨hrun, -⟩ | ⟨hreset, hm, -⟩ := nextMove_cases h
  case inr.inr.inr.inr => exact ⟨hreset, hm⟩
  all_goals exact absurd hrun ho

/-- With a record and no reset to come no agent can move (R113). -/
theorem nextMove_eq_none_of_stopped {s : State} (ho : s.outcome ≠ .none) (hr : s.env.resets = 0) :
    nextMove s = none := by
  rw [Option.eq_none_iff_forall_ne_some]
  rintro ⟨m, t⟩ hm
  have := (nextMove_of_stopped ho hm).1
  omega

/-- At rest with a record a step does not complete (R113). -/
theorem outcome_of_atRest_eq_next {s t : State} (h : atRest s = .next t) : s.outcome = .none := by
  rw [atRest] at h
  split at h <;> cases h
  assumption

/-- Settles O13: with a record only a reset can move, and performing it leaves the reset value of `outcome`. -/
theorem outcomeIsSticky : Obligations.OutcomeIsSticky := by
  intro s
  refine ⟨fun f ho hr => ?_, fun r ho hr => ?_, fun t ho hs => ?_⟩
  · have hm := nextMove_eq_none_of_stopped (by simp [ho]) hr
    exact ⟨advance_of_rest hm, by rw [step_of_rest hm, atRest, ho]⟩
  · have hm := nextMove_eq_none_of_stopped (by simp [ho]) hr
    exact ⟨advance_of_rest hm, by rw [step_of_rest hm, atRest, ho]⟩
  · cases hm : nextMove s with
    | none =>
      rw [step_of_rest hm] at hs
      exact absurd (outcome_of_atRest_eq_next hs) ho
    | some move =>
      obtain ⟨m, u⟩ := move
      obtain ⟨hreset, rfl⟩ := nextMove_of_stopped ho hm
      rw [step_of_move hm] at hs
      cases hs
      exact ⟨hreset, rfl⟩

/-! ### The overruns -/

/-- An undisturbed command whose line faults stops there: the fault is the step's and is all that is recorded. -/
theorem step_advance_of_line_error {s : State} {f : Fault} (hu : Undisturbed s) (hb : s.eng.busy = true)
    (h : engineLine s = .error f) : step s = .fault f ∧ advance s = { s with outcome := .fault f } := by
  have hq : s.eng.seq ≠ .idle := fun hq => by
    rw [engineLine, hq] at h
    cases h
  have hs : step s = .fault f := by rw [step_engine hu hb hq, h, ofExcept]
  exact ⟨hs, by rw [advance_eq_settled (nextMove_engine hu hb hq), hs, settled_fault hu.1]⟩

/-- A drain begun with the payload full faults at its first line (R71, R111). -/
theorem IsDrain.overrun {own : DrainLine → SeqPos} {back : SeqPos} {unload : State → Except Fault State} {s : State}
    (hd : IsDrain own back unload) (hq : s.eng.seq = own .D1) (hi : s.eng.work.n.toNat ≤ s.eng.work.i) :
    engineLine s = .error (.drainOverrun (own .D1)) := by
  rw [hd.line .D1 s hq, drainLine, if_pos hi]

/-- Settles O56: each of the six lines takes its faulting branch, and a faulting line is recorded. -/
theorem overrunsFault : Obligations.OverrunsFault := by
  intro s q hu hb hq
  refine ⟨?_, fun hi => ⟨?_, ?_⟩⟩
  · rintro rfl hi
    exact step_advance_of_line_error hu hb (by rw [engineLine_readbyte hq, readbyteLine, if_pos hi])
  · rintro (rfl | rfl)
    · exact step_advance_of_line_error hu hb (by rw [engineLine_readbytes hq, readbytesLine, if_pos hi])
    · exact step_advance_of_line_error hu hb (by rw [engineLine_regwrrd hq, regwrrdLine, if_pos hi])
  · rintro (rfl | rfl | rfl)
    · exact step_advance_of_line_error hu hb (readbyteDrain.overrun hq hi)
    · exact step_advance_of_line_error hu hb (readbytesDrain.overrun hq hi)
    · exact step_advance_of_line_error hu hb (regwrrdDrain.overrun hq hi)

/-! ### Several instances -/

/-- A caller's store as a recorded step: it completes and writes its byte (R36). -/
theorem advance_of_store {s t : State} {a : Half} {v : Byte} (ha : a.toNat < 2 ^ s.par.addrW)
    (h : nextMove s = some (.act (.store a v), t)) : (advance s).mem = s.mem.write a.toNat v := by
  rw [advance_of_move h]
  obtain ⟨e, rfl⟩ := nextMove_env h
  rw [perform, runAction_store (s := { s with env := e }) v ha, settled]

/-- A caller's load as a recorded step: it completes and sees its byte (R36, R46). -/
theorem advance_of_load {s t : State} {a : Half} (ha : a.toNat < 2 ^ s.par.addrW)
    (h : nextMove s = some (.act (.load a), t)) :
    (advance s).hist.reads = s.hist.reads ++ [.byte a (s.mem.read a.toNat)] := by
  rw [advance_eq_settled h, step_of_load ha h, settled]

/-- Of a system only the member named takes a step, on the shared memory, and no other member changes (R122). -/
theorem sysStep_of_inst {k : Nat} {y : System} {s : State} (h : y.insts[k]? = some s) :
    sysStep k y = ⟨y.insts.set k (advance (s.asInstance k y.mem)), (advance (s.asInstance k y.mem)).mem⟩ := by
  simp only [sysStep, h]

theorem sysStep_insts_same {k : Nat} {y : System} {s : State} (h : y.insts[k]? = some s) :
    (sysStep k y).insts[k]? = some (advance (s.asInstance k y.mem)) := by
  obtain ⟨hk, -⟩ := List.getElem?_eq_some_iff.mp h
  rw [sysStep_of_inst h, List.getElem?_set_self hk]

theorem sysStep_insts_other {j k : Nat} {y : System} {s : State} (h : y.insts[k]? = some s) (hj : j ≠ k) :
    (sysStep k y).insts[j]? = y.insts[j]? := by
  rw [sysStep_of_inst h, List.getElem?_set_ne hj.symm]

theorem sysStep_mem {k : Nat} {y : System} {s : State} (h : y.insts[k]? = some s) :
    (sysStep k y).mem = (advance (s.asInstance k y.mem)).mem := by
  rw [sysStep_of_inst h]

/-- Settles O17: a step of the system is the mover's own; the reader, which that step leaves alone, moves next on the
memory that the store left. -/
theorem instancesShareOnlyMemory : Obligations.InstancesShareOnlyMemory := by
  intro k y s hk
  refine ⟨sysStep_insts_same hk, sysStep_mem hk, fun j => sysStep_insts_other hk, ?_⟩
  intro j u s' u' a v hj hu hwf hsa hua hstore hload
  have hmem : (sysStep k y).mem = y.mem.write a.toNat v := by
    rw [sysStep_mem hk]
    exact advance_of_store hsa (nextMove_asInstance k y.mem hstore)
  have hreader : (sysStep k y).insts[j]? = some u := (sysStep_insts_other hk hj).trans hu
  refine ⟨_, sysStep_insts_same hreader, ?_⟩
  calc (advance (u.asInstance j (sysStep k y).mem)).hist.reads
      = u.hist.reads ++ [.byte a ((sysStep k y).mem.read a.toNat)] :=
        advance_of_load (s := u.asInstance j _) hua (nextMove_asInstance j _ hload)
    _ = u.hist.reads ++ [.byte a v] := by rw [hmem, Memory.read_write_same hwf]

end Sys2Proof.Machine
end

section
/-! SUPPORT. What reset leaves, from the start of a run and by a device reset; an idle block; and the end of a run (R123
to R125, R133, R135). -/

namespace Sys2Proof.Machine

/-! ### The end of a run -/

/-- The moves that run no word, no engine line and no reset: a caller's reads, stores and mask changes, and the port's
change of its own registers (R135 item 4). -/
def Move.isQuiet : Move → Bool
  | .act (.issue _) => false
  | .act _ => true
  | .port (.deliver _) => false
  | .port (.drive _) => true
  | .engine => false
  | .reset => false

theorem NoWord.head_isQuiet {x : Action} {xs : List Action} (h : NoWord (x :: xs)) : (Move.act x).isQuiet = true := by
  cases x
  case issue cw => exact absurd List.mem_cons_self (h cw)
  all_goals rfl

theorem NoEvent.head_isQuiet {x : PortAction} {xs : List PortAction} (h : NoEvent (x :: xs)) :
    (Move.port x).isQuiet = true := by
  cases x
  case deliver cw => exact absurd List.mem_cons_self (h cw)
  case drive => rfl

/-- At a good end every move is quiet, and using its input up leaves a good end. -/
theorem EndsWell.after_nextMove {s u : State} {m : Move} (h : EndsWell s) (hr : s.env.resets = 0)
    (hm : nextMove s = some (m, u)) : m.isQuiet = true ∧ EndsWell u := by
  obtain ⟨ho, hb, hq, htarget, hfg, hother, hport⟩ := h
  obtain ⟨x, rest, -, -, hx, rfl, rfl⟩ | ⟨x, rest, -, hx, rfl, rfl⟩ | ⟨x, rest, -, hx, rfl, -, rfl⟩ | ⟨-, hrun, -⟩ |
    ⟨hreset, -⟩ := nextMove_cases hm
  · rw [hx] at hfg
    exact ⟨hfg.head_isQuiet, ho, hb, hq, htarget, hfg.tail, hother, hport⟩
  · rw [hx] at hother
    exact ⟨hother.head_isQuiet, ho, hb, hq, htarget, hfg, hother.tail, hport⟩
  · rw [hx] at hport
    exact ⟨hport.head_isQuiet, ho, hb, hq, htarget, hfg, hother, hport.tail⟩
  · exact absurd hq hrun
  · omega

/-- What a quiet move may change: the port's registers, memory, the mask and the record of reads; memory by a store
alone (R22, R36, R46, R47). -/
theorem perform_of_isQuiet {m : Move} {s t : State} (hquiet : m.isQuiet = true) (h : perform m s = .next t) :
    ∃ p mem b r, t = { s with port := p, mem := mem, env := { s.env with masked := b },
                              hist := { s.hist with reads := r } } ∧
      ((∀ a v, m ≠ .act (.store a v)) → mem = s.mem) := by
  cases m with
  | act x =>
    cases x with
    | issue cw => cases hquiet
    | load a =>
      simp only [perform, runAction] at h
      split at h <;> cases h
      exact ⟨_, _, _, _, rfl, fun _ => rfl⟩
    | store a v =>
      obtain ⟨-, rfl⟩ := State.writeByte_eq_ok.mp (ofExcept_eq_next.mp h)
      exact ⟨_, _, _, _, rfl, fun hno => absurd rfl (hno a v)⟩
    | readVrf f => cases h; exact ⟨_, _, _, _, rfl, fun _ => rfl⟩
    | mask => cases h; exact ⟨_, _, _, _, rfl, fun _ => rfl⟩
    | unmask => cases h; exact ⟨_, _, _, _, rfl, fun _ => rfl⟩
  | port x =>
    cases x with
    | deliver cw => cases hquiet
    | drive regs => cases h; exact ⟨_, _, _, _, rfl, fun _ => rfl⟩
  | engine | reset => cases hquiet

/-- Settles O14: the move of such a step is quiet, and nothing that a good end or an observation speaks of, memory
apart, is among what a quiet move may change. -/
theorem endOfRunIsQuiescent : Obligations.EndOfRunIsQuiescent := by
  intro s t h hr hs
  cases hm : nextMove s with
  | none =>
    rw [step_of_rest hm] at hs
    rw [atRest_eq_next hs]
    exact ⟨h, rfl, rfl, rfl, rfl, fun _ => rfl⟩
  | some move =>
    obtain ⟨m, u⟩ := move
    rw [step_of_move hm] at hs
    obtain ⟨hquiet, hu⟩ := h.after_nextMove hr hm
    obtain ⟨_, _, _, _, rfl, hmem⟩ := perform_of_isQuiet hquiet hs
    obtain ⟨e, rfl⟩ := nextMove_env hm
    exact ⟨hu, rfl, rfl, rfl, rfl, fun hno => hmem fun a v hstore => hno a v _ (by rw [hstore])⟩

/-! ### A device reset -/

/-- An agent that has the turn and can move moves (R45). -/
theorem pickAgent_of_turn {s : State} {a : Agent} (hturn : s.env.turns.head? = some a) (he : enabled s a = true) :
    pickAgent s = some a := by
  obtain ⟨rest, hrest⟩ := List.head?_eq_some_iff.mp hturn
  simp only [pickAgent, hrest, if_pos he]

/-- A pending device reset that has the turn is the move, also after a stop (R113, R123). -/
theorem nextMove_reset {s : State} (hr : 0 < s.env.resets) (hturn : s.env.turns.head? = some .device) :
    ∃ u, nextMove s = some (.reset, u) := by
  have hpick : pickAgent s = some .device := pickAgent_of_turn hturn (decide_eq_true hr)
  exact ⟨_, by rw [nextMove, hpick]; rfl⟩

/-- Settles O20: the step is the device reset, which reads the parameters and keeps the records. -/
theorem deviceResetAbandons : Obligations.DeviceResetAbandons := by
  intro s hr hturn
  obtain ⟨u, hm⟩ := nextMove_reset hr hturn
  obtain ⟨e, rfl⟩ := nextMove_env hm
  exact ⟨_, step_of_move hm, rfl, rfl, rfl, rfl, rfl, rfl, rfl, rfl⟩

/-! ### An idle block -/

/-- No agent can move in an idle block with no input (R124). -/
theorem enabled_eq_false_of_idle {s : State} (hq : s.eng.seq = .idle) (hfg : s.env.fg = []) (hport : s.env.port = [])
    (hother : s.env.other = []) (hr : s.env.resets = 0) (a : Agent) : enabled s a = false := by
  cases a with
  | foreground => simp [enabled, hfg]
  | engine => simp [enabled, hq]
  | port => simp [enabled, hport]
  | other => simp [enabled, hother]
  | device => simp [enabled, hr]

/-- Settles O11: no agent can move, and with nothing recorded the state at rest is the answer. -/
theorem idleStays : Obligations.IdleStays := by
  intro s ho hq hfg hport hother hr
  have hm : nextMove s = none := nextMove_eq_none (enabled_eq_false_of_idle hq hfg hport hother hr)
  rw [step_of_rest hm, atRest, ho]

/-! ### After reset -/

/-- Settles O19: the reset state is written with these values. -/
theorem resetLeaves : Obligations.ResetLeaves := fun _ =>
  ⟨rfl, rfl, rfl, rfl, rfl, rfl, rfl, rfl, rfl, rfl, rfl, rfl⟩

/-- A stop right after reset leaves the cursor at 0 in either mode (R87). -/
theorem Vrf.stopCursor_reset (m : Mode) : Vrf.reset.stopCursor m = 0 := by
  cases m <;> rfl

/-- Settles O21: after reset the slots are empty and no buffer is bound, which is where each of these words faults. -/
theorem unconfiguredEventsFault : Obligations.UnconfiguredEventsFault := by
  intro p d
  refine ⟨fun hr => ⟨?_, ?_, ?_⟩, ?_, ?_, _, rfl, Vrf.stopCursor_reset p.mode, rfl⟩
  · exact exec_evWritten_of_empty d hr rfl
  · exact exec_evRequested_of_empty hr rfl
  · exact exec_evStopped_of_empty hr rfl
  · exact exec_vrfStore_of_error (vrfStoreOp_of_unbound d rfl)
  · exact exec_vrfRequest_of_unbound rfl

/-- Settles O58: the parameters' ranges are those of memory and CNT, and each part of the invariant holds of its reset
value. -/
theorem invariantAfterReset : Obligations.InvariantAfterReset := by
  intro p hp
  obtain ⟨-, -, hmem⟩ := Params.wf_iff.mp hp
  exact inv_iff.mpr ⟨hp, hmem, Nat.two_pow_pos _, .reset p, .idle p _⟩

end Sys2Proof.Machine
end
